-- ==== Sys2Proof/Word.lean ====
section
/-! DEFINITION. The data widths of the block (00_scope.md R6, R10): bytes, 32-bit words and fixed-length byte strings. -/

namespace Sys2Proof

/-- One byte of data memory or of a byte string (R12). -/
abbrev Byte := BitVec 8

/-- A `u32`: the word width `W` of R6. -/
abbrev Word := BitVec 32

/-- `bytes[n]` of R12: a byte string whose length is fixed. -/
abbrev Bytes (n : Nat) := Vector Byte n

/-- `zeros(n)` of R12. -/
def zeros (n : Nat) : Bytes n := Vector.replicate n 0

end Sys2Proof
end

