-- ==== Sys2Proof/Machine/Bytes.lean ====
section
/-! DEFINITION. Byte strings, numbers and words (00_scope.md R11–R13; little-endian throughout, 20_memory.md R74). -/

namespace Sys2Proof.Machine

/-- `le(s)` of R13: a byte string read as a little-endian number. -/
def le : List Byte → Nat
  | [] => 0
  | b :: bs => b.toNat + 256 * le bs

/-- `le_bytes(v, n)` of R13: the low `n` bytes of `v`, least significant first. -/
def leBytes (v : Nat) : Nat → List Byte
  | 0 => []
  | n + 1 => BitVec.ofNat 8 v :: leBytes (v / 256) n

/-- `s[a:b]` of R12. -/
def slice (s : List Byte) (a b : Nat) : List Byte := (s.drop a).take (b - a)

/-- `words(s)` of R13: the little-endian words of a string of `4m` bytes. -/
def words : List Byte → List Word
  | b0 :: b1 :: b2 :: b3 :: rest => BitVec.ofNat 32 (le [b0, b1, b2, b3]) :: words rest
  | _ => []

/-- `bytes_of(w_0 … w_{m−1})` of R13. -/
def bytesOf (ws : List Word) : List Byte := ws.flatMap fun w => leBytes w.toNat 4

/-- `s XOR t` of R12, for `len(s) ≤ len(t)`. -/
def xorBytes (s t : List Byte) : List Byte := List.zipWith (· ^^^ ·) s t

/-- `rotl(a, n)` of R11, for 0 < n < 32. -/
def rotl (a : Word) (n : Nat) : Word := (a <<< n) ||| (a >>> (32 - n))

/-- `ceil(a / b)`. -/
def ceilDiv (a b : Nat) : Nat := (a + (b - 1)) / b

/-- The fixed-length string with the bytes of a list that is that long; a list of another length, which no rule produces, is
padded or cut (log 13). -/
def bytesFrom (n : Nat) (l : List Byte) : Bytes n :=
  ⟨((l ++ List.replicate n 0).take n).toArray, by simp⟩

end Sys2Proof.Machine
end

