-- ==== Sys2Proof/Machine/Poly1305.lean ====
section
/-! DEFINITION. Poly1305 (43_poly1305.md R170–R173). -/

namespace Sys2Proof.Machine

/-- `P1305` (R170). -/
def p1305 : Nat := 2 ^ 130 - 5

/-- `CLAMP` (R170). -/
def clamp : BitVec 128 := 0x0ffffffc0ffffffc0ffffffc0fffffff#128

/-- `r` of a one-time key (R171). -/
def polyR (k : List Byte) : BitVec 128 := BitVec.ofNat 128 (le (slice k 0 16)) &&& clamp

/-- `s` of a one-time key (R171). -/
def polyS (k : List Byte) : BitVec 128 := BitVec.ofNat 128 (le (slice k 16 32))

/-- `P_BLOCK(acc, r, c)` (R172): the chunk with one set bit above its last byte, added and multiplied. -/
def pBlock (acc r : Nat) (c : List Byte) : Nat := ((acc + (le c + 2 ^ (8 * c.length))) * r) % p1305

/-- The last step of R173: `le_bytes((acc + s) mod 2^128, 16)`. -/
def polyTag (acc s : Nat) : List Byte := leBytes ((acc + s) % 2 ^ 128) 16

/-- The first `n` chunks of 16 bytes of `m` absorbed in order (R173); the last of them may be shorter. -/
def absorbChunks (r : Nat) : Nat → Nat → List Byte → Nat
  | 0, acc, _ => acc
  | n + 1, acc, m => absorbChunks r n (pBlock acc r (m.take 16)) (m.drop 16)

/-- `POLY1305_FN(k, m)` (R173). -/
def poly1305Fn (k m : List Byte) : List Byte :=
  polyTag (absorbChunks (polyR k).toNat (ceilDiv m.length 16) 0 m) (polyS k).toNat

end Sys2Proof.Machine
end

