-- ==== Sys2Proof/Machine/Salsa.lean ====
section
/-! DEFINITION. The Salsa20 core, HSalsa20 and the XSalsa20 keystream (40_salsa20_core.md R120–R128, 41_hsalsa20.md R140,
42_xsalsa20_stream.md R150, R151). -/

namespace Sys2Proof.Machine

/-- The 16-word state `X[0..15]`, a 4×4 matrix in row-major order (R45, R122). -/
structure Block where
  (x0 x1 x2 x3 x4 x5 x6 x7 x8 x9 x10 x11 x12 x13 x14 x15 : Word)
  deriving DecidableEq, Repr

/-- The words of the state in order. -/
def Block.toWords (b : Block) : List Word :=
  [b.x0, b.x1, b.x2, b.x3, b.x4, b.x5, b.x6, b.x7, b.x8, b.x9, b.x10, b.x11, b.x12, b.x13, b.x14, b.x15]

/-- The state with the first 16 words of a list. -/
def blockOfWords (ws : List Word) : Block :=
  ⟨ws.getD 0 0, ws.getD 1 0, ws.getD 2 0, ws.getD 3 0, ws.getD 4 0, ws.getD 5 0, ws.getD 6 0, ws.getD 7 0,
   ws.getD 8 0, ws.getD 9 0, ws.getD 10 0, ws.getD 11 0, ws.getD 12 0, ws.getD 13 0, ws.getD 14 0, ws.getD 15 0⟩

/-- Word-by-word wrapping addition of two states, the feed-forward of R126. -/
def addBlocks (a b : Block) : Block :=
  ⟨a.x0 + b.x0, a.x1 + b.x1, a.x2 + b.x2, a.x3 + b.x3, a.x4 + b.x4, a.x5 + b.x5, a.x6 + b.x6, a.x7 + b.x7,
   a.x8 + b.x8, a.x9 + b.x9, a.x10 + b.x10, a.x11 + b.x11, a.x12 + b.x12, a.x13 + b.x13, a.x14 + b.x14,
   a.x15 + b.x15⟩

/-- σ0 (R120). -/
def sigma0 : Word := 0x61707865#32
/-- σ1 (R120). -/
def sigma1 : Word := 0x3320646e#32
/-- σ2 (R120). -/
def sigma2 : Word := 0x79622d32#32
/-- σ3 (R120). -/
def sigma3 : Word := 0x6b206574#32

/-- `quarterround` (R121). -/
def quarterround (y0 y1 y2 y3 : Word) : Word × Word × Word × Word :=
  let z1 := y1 ^^^ rotl (y0 + y3) 7
  let z2 := y2 ^^^ rotl (z1 + y0) 9
  let z3 := y3 ^^^ rotl (z2 + z1) 13
  let z0 := y0 ^^^ rotl (z3 + z2) 18
  (z0, z1, z2, z3)

/-- `columnround`, the four groups of R122. -/
def columnround (x : Block) : Block :=
  let (z0, z4, z8, z12) := quarterround x.x0 x.x4 x.x8 x.x12
  let (z5, z9, z13, z1) := quarterround x.x5 x.x9 x.x13 x.x1
  let (z10, z14, z2, z6) := quarterround x.x10 x.x14 x.x2 x.x6
  let (z15, z3, z7, z11) := quarterround x.x15 x.x3 x.x7 x.x11
  ⟨z0, z1, z2, z3, z4, z5, z6, z7, z8, z9, z10, z11, z12, z13, z14, z15⟩

/-- `rowround`, the four groups of R123. -/
def rowround (x : Block) : Block :=
  let (z0, z1, z2, z3) := quarterround x.x0 x.x1 x.x2 x.x3
  let (z5, z6, z7, z4) := quarterround x.x5 x.x6 x.x7 x.x4
  let (z10, z11, z8, z9) := quarterround x.x10 x.x11 x.x8 x.x9
  let (z15, z12, z13, z14) := quarterround x.x15 x.x12 x.x13 x.x14
  ⟨z0, z1, z2, z3, z4, z5, z6, z7, z8, z9, z10, z11, z12, z13, z14, z15⟩

/-- `doubleround` (R124): a column round, then a row round. -/
def doubleround (x : Block) : Block := rowround (columnround x)

/-- `doubleround` applied `n` times. -/
def doublerounds : Nat → Block → Block
  | 0, x => x
  | n + 1, x => doublerounds n (doubleround x)

/-- `PERM` (R124): ten double rounds. -/
def perm (x : Block) : Block := doublerounds 10 x

/-- `CORE_HASH` (R125): no feed-forward. -/
def coreHash (input : List Byte) : List Byte :=
  bytesOf (perm (blockOfWords (words input))).toWords

/-- `CORE_STREAM` (R126): with the feed-forward of the input. -/
def coreStream (input : List Byte) : List Byte :=
  let x := blockOfWords (words input)
  bytesOf (addBlocks (perm x) x).toWords

/-- The state of R128 for a key, a nonce and a counter: words 8 and 9 hold the counter, low word first. -/
def streamState (k n : List Byte) (c : Nat) : Block :=
  let kw := words k
  let nw := words n
  ⟨sigma0, kw.getD 0 0, kw.getD 1 0, kw.getD 2 0,
   kw.getD 3 0, sigma1, nw.getD 0 0, nw.getD 1 0,
   BitVec.ofNat 32 c, BitVec.ofNat 32 (c / 2 ^ 32), sigma2, kw.getD 4 0,
   kw.getD 5 0, kw.getD 6 0, kw.getD 7 0, sigma3⟩

/-- `SALSA20_BLOCK(k, n, c)` (R128), for 0 ≤ c < 2^64. -/
def salsa20Block (k n : List Byte) (c : Nat) : List Byte := coreStream (bytesOf (streamState k n c).toWords)

/-- The state of R140 for a key and a nonce head. -/
def hsalsaState (k h : List Byte) : Block :=
  let kw := words k
  let hw := words h
  ⟨sigma0, kw.getD 0 0, kw.getD 1 0, kw.getD 2 0,
   kw.getD 3 0, sigma1, hw.getD 0 0, hw.getD 1 0,
   hw.getD 2 0, hw.getD 3 0, sigma2, kw.getD 4 0,
   kw.getD 5 0, kw.getD 6 0, kw.getD 7 0, sigma3⟩

/-- `HSALSA20_FN(k, h)` (R140): words 0, 5, 10, 15, 6, 7, 8, 9 of the permuted state. -/
def hsalsa20Fn (k h : List Byte) : List Byte :=
  let z := perm (hsalsaState k h)
  bytesOf [z.x0, z.x5, z.x10, z.x15, z.x6, z.x7, z.x8, z.x9]

/-- Blocks `c`, `c+1`, … of a stream, `n` of them, joined. -/
def keystreamBlocks (k n : List Byte) (c : Nat) : Nat → List Byte
  | 0 => []
  | m + 1 => salsa20Block k n c ++ keystreamBlocks k n (c + 1) m

/-- `XS_KS(k, n, L)` (R150). -/
def xsKs (k n : List Byte) (len : Nat) : List Byte :=
  (keystreamBlocks (hsalsa20Fn k (slice n 0 16)) (slice n 16 24) 0 (ceilDiv len 64)).take len

/-- `XS_XOR_FN(k, n, m)` (R151). -/
def xsXorFn (k n m : List Byte) : List Byte := xorBytes m (xsKs k n m.length)

end Sys2Proof.Machine
end

