-- ==== Sys2Proof/Machine/Aead.lean ====
section
/-! DEFINITION. The constant-time compare and the AEAD composition as functions (45_ct_memcmp.md R210, 44_aead.md R190, R191). -/

namespace Sys2Proof.Machine

/-- The accumulated difference `d` of R210 over the indices `i`, `i+1`, …, `n` of them: every byte, in index order. -/
def ctDiff (a b : List Byte) (d : Byte) (i : Nat) : Nat → Byte
  | 0 => d
  | n + 1 => ctDiff a b (d ||| (a.getD i 0 ^^^ b.getD i 0)) (i + 1) n

/-- `CT_EQ(a, b, L)` (R210), as a truth value. -/
def ctEq (a b : List Byte) (len : Nat) : Bool := ctDiff a b 0 0 len == 0

/-- `CT_OFFSET` (R6): the keystream offset of the body. -/
def ctOffset : Nat := 64

/-- `polyKey` of R190 and R191: the first 32 bytes of keystream block 0. -/
def aeadPolyKey (k n : List Byte) (len : Nat) : List Byte := slice (xsKs k n (ctOffset + len)) 0 32

/-- The body keystream of R190 and R191, bytes 64 … 64+L−1. -/
def aeadBodyKs (k n : List Byte) (len : Nat) : List Byte := slice (xsKs k n (ctOffset + len)) ctOffset (ctOffset + len)

/-- `AEAD_SEAL(k, n, pt)` (R190): the tag and the ciphertext body. -/
def aeadSeal (k n pt : List Byte) : List Byte × List Byte :=
  let ct := xorBytes pt (aeadBodyKs k n pt.length)
  (poly1305Fn (aeadPolyKey k n pt.length) ct, ct)

/-- `AEAD_OPEN(k, n, ct, tag)` (R191): the plaintext, or `none` for `AUTHENTICATION_FAILURE`. -/
def aeadOpen (k n ct tag : List Byte) : Option (List Byte) :=
  let expected := poly1305Fn (aeadPolyKey k n ct.length) ct
  if ctEq expected tag 16 then some (xorBytes ct (aeadBodyKs k n ct.length)) else none

end Sys2Proof.Machine
end

