-- ==== Sys2Proof/Config.lean ====
section
/-! DEFINITION. What a build fixes (00_scope.md R6), the constants of the register map, and the one free value. -/

namespace Sys2Proof.Config

/-- The build parameters of R6 that a rule depends on. The state carries one (`State.build`), so that a statement over all
states is a statement over all builds; no step changes it (log 3). -/
structure Build where
  /-- `DMEM_SIZE`, in bytes. -/
  dmemSize : Nat
  /-- `CTR_LIMIT`: the largest block-counter value the block uses. -/
  ctrLimit : Nat
  /-- `AEAD_MAX_LEN`: the largest AEAD body length accepted. -/
  aeadMaxLen : Nat
  /-- `BLOCK_BASE`: the bus address of the block, the platform's choice (R81). -/
  blockBase : Nat
  deriving DecidableEq, Repr

/-- The legal ranges of R6. -/
abbrev Build.legal (b : Build) : Prop :=
  256 ≤ b.dmemSize ∧ b.dmemSize ≤ 2 ^ 24 ∧ b.ctrLimit ≤ 2 ^ 64 - 1 ∧ b.aeadMaxLen ≤ 2 ^ 32 - 1

/-- The default build of R6. DESIGN CHOICE for `blockBase` alone: R6 gives it no value (log 3). -/
def defaultBuild : Build :=
  { dmemSize := 65536, ctrLimit := 2 ^ 64 - 1, aeadMaxLen := 2 ^ 32 - 1, blockBase := 0 }

/-- The value of `ID` (R2, R33): command set XSP-CMD 1.0. -/
def idValue : Word := 0x58530100#32

/-- `DMEM_WINDOW`: the offset of the data-memory window from `BLOCK_BASE` (R6, R70). -/
def dmemWindow : Nat := 0x10000

/-- The number of bytes of bus address space the block decodes (R70). -/
def decodedSize : Nat := 0x01010000

/-- FREE VALUE. The byte that stands at DMEM address `a` of an output region of the `n`-th aborted command (R268, U3): any
value, with no body, so that nothing can be proved of it (log 5). -/
opaque freeByte : Nat → Nat → Byte

end Sys2Proof.Config
end

