-- ==== Sys2Proof/Syntax.lean ====
section
/-! DEFINITION. The commands of XSP-CMD 1.0, one constructor per row of 30_encoding.md R101, and the reasons a word is illegal. -/

namespace Sys2Proof

/-- The thirteen commands (R101, R109). `klen` and `nlen` are the declared lengths `KLEN` and `NLEN` of R102, for the rows
that leave those fields open; they are checked when the command executes (R103). All other operands are the latched
argument registers (R110). -/
inductive Instr where
  | salsa20CoreStream
  | salsa20CoreHash
  | hsalsa20 (klen nlen : Nat)
  | xsInit (klen nlen : Nat)
  | xsXor
  | xsKeystream
  | pInit (klen : Nat)
  | pUpdate
  | pFinal
  | aeadEnc (klen nlen : Nat)
  | aeadDec (klen nlen : Nat)
  | ctMemcmp
  | zeroize
  deriving DecidableEq, Repr

/-- Why a word is no command: the cases of R105. Every one completes with `ILLEGAL_CMD`; which of several cases that hold is
named has no effect (log 10). -/
inductive Illegal where
  /-- R105(a): `OPC` = `0x00`. -/
  | zeroOpcode
  /-- R105(b): an unassigned `OPC` outside the reserved range. -/
  | unassignedOpcode
  /-- R105(b): `OPC` `0x80`–`0xEF`, reserved for later versions. -/
  | reservedOpcode
  /-- R105(c): `RSV` ≠ 0. -/
  | reservedBits
  /-- R105(d): `M` = 1 in a command of one form. -/
  | modeBit
  /-- R105(e): `KLEN` ≠ 0 in a command that takes no key. -/
  | keyLengthField
  /-- R105(f): `NLEN` ≠ 0 in a command that takes no nonce. -/
  | nonceLengthField
  deriving DecidableEq, Repr

end Sys2Proof
end

