-- ==== Sys2Proof/WellFormed.lean ====
section
/-! DEFINITION. Which terms of Instr an encoding exists for: the declared lengths fit their 8-bit fields (30_encoding.md R100). -/

namespace Sys2Proof

/-- A declared length that fits the 8-bit field `KLEN` or `NLEN` (R100). -/
abbrev fitsField (n : Nat) : Prop := n < 2 ^ 8

/-- The terms the format `C` can write (R100, R107): each declared length fits its field. -/
def Instr.wellFormed : Instr → Bool
  | .salsa20CoreStream => true
  | .salsa20CoreHash => true
  | .hsalsa20 klen nlen => decide (fitsField klen) && decide (fitsField nlen)
  | .xsInit klen nlen => decide (fitsField klen) && decide (fitsField nlen)
  | .xsXor => true
  | .xsKeystream => true
  | .pInit klen => decide (fitsField klen)
  | .pUpdate => true
  | .pFinal => true
  | .aeadEnc klen nlen => decide (fitsField klen) && decide (fitsField nlen)
  | .aeadDec klen nlen => decide (fitsField klen) && decide (fitsField nlen)
  | .ctMemcmp => true
  | .zeroize => true

end Sys2Proof
end

