-- ==== Sys2Proof/Decode.lean ====
section
/-! DEFINITION. The decoder, total on 32-bit command words and rejecting by name (30_encoding.md R100–R106), and the encoder. -/

namespace Sys2Proof

/-- `OPC`, bits 7:0 (R100). -/
def cmdOpc (w : Word) : BitVec 8 := w.extractLsb' 0 8
/-- `M`, bit 8 (R100, R102). -/
def cmdM (w : Word) : BitVec 1 := w.extractLsb' 8 1
/-- `RSV`, bits 15:9 (R100). -/
def cmdRsv (w : Word) : BitVec 7 := w.extractLsb' 9 7
/-- `KLEN`, bits 23:16 (R100). -/
def cmdKlen (w : Word) : BitVec 8 := w.extractLsb' 16 8
/-- `NLEN`, bits 31:24 (R100). -/
def cmdNlen (w : Word) : BitVec 8 := w.extractLsb' 24 8

/-- A row that takes no key and no nonce: both length fields must be 0 (R105(e), R105(f)). -/
def decodeNoLengths (w : Word) (i : Instr) : Except Illegal Instr :=
  if cmdKlen w ≠ 0 then .error .keyLengthField
  else if cmdNlen w ≠ 0 then .error .nonceLengthField
  else .ok i

/-- A row with a declared key length and no nonce (`P.INIT`): `NLEN` must be 0 (R103, R105(f)). -/
def decodeKeyLength (w : Word) (f : Nat → Instr) : Except Illegal Instr :=
  if cmdNlen w ≠ 0 then .error .nonceLengthField
  else .ok (f (cmdKlen w).toNat)

/-- A row with both declared lengths, zero-extended as R102 says. -/
def decodeBothLengths (w : Word) (f : Nat → Nat → Instr) : Except Illegal Instr :=
  .ok (f (cmdKlen w).toNat (cmdNlen w).toNat)

/-- A row with one form only: `M` must be 0 (R105(d)). -/
def decodeOneForm (w : Word) (r : Except Illegal Instr) : Except Illegal Instr :=
  if cmdM w ≠ 0 then .error .modeBit else r

/-- The opcode map of R101 on a word whose reserved bits are 0. -/
def decodeOpcode (w : Word) : Except Illegal Instr :=
  match (cmdOpc w).toNat with
  | 0x00 => .error .zeroOpcode
  | 0x01 => decodeNoLengths w (if cmdM w = 0 then .salsa20CoreStream else .salsa20CoreHash)
  | 0x02 => decodeOneForm w (decodeBothLengths w .hsalsa20)
  | 0x10 => decodeOneForm w (decodeBothLengths w .xsInit)
  | 0x11 => decodeNoLengths w (if cmdM w = 0 then .xsXor else .xsKeystream)
  | 0x20 => decodeOneForm w (decodeKeyLength w .pInit)
  | 0x21 => decodeOneForm w (decodeNoLengths w .pUpdate)
  | 0x22 => decodeOneForm w (decodeNoLengths w .pFinal)
  | 0x30 => decodeOneForm w (decodeBothLengths w .aeadEnc)
  | 0x31 => decodeOneForm w (decodeBothLengths w .aeadDec)
  | 0x40 => decodeOneForm w (decodeNoLengths w .ctMemcmp)
  | 0xF0 => decodeOneForm w (decodeNoLengths w .zeroize)
  | opc => if 0x80 ≤ opc ∧ opc ≤ 0xEF then .error .reservedOpcode else .error .unassignedOpcode

/-- Decoding, a total function of the word (R104). Every command is one 32-bit word (R106), a bus datum whose bit 0 is the
bus's bit 0 (R74(d)), so that no byte order enters. -/
def decode (w : Word) : Except Illegal Instr :=
  if cmdRsv w ≠ 0 then .error .reservedBits else decodeOpcode w

/-- A word of the format `C` from its fields (R100), with `RSV` = 0. -/
def packFields (nlen klen : Nat) (m : BitVec 1) (opc : BitVec 8) : Word :=
  BitVec.ofNat 8 nlen ++ (BitVec.ofNat 8 klen ++ ((0 : BitVec 7) ++ (m ++ opc)))

/-- The word of a command (R101, R107), from the same table. -/
def encode : Instr → Word
  | .salsa20CoreStream => packFields 0 0 0 0x01
  | .salsa20CoreHash => packFields 0 0 1 0x01
  | .hsalsa20 klen nlen => packFields nlen klen 0 0x02
  | .xsInit klen nlen => packFields nlen klen 0 0x10
  | .xsXor => packFields 0 0 0 0x11
  | .xsKeystream => packFields 0 0 1 0x11
  | .pInit klen => packFields 0 klen 0 0x20
  | .pUpdate => packFields 0 0 0 0x21
  | .pFinal => packFields 0 0 0 0x22
  | .aeadEnc klen nlen => packFields nlen klen 0 0x30
  | .aeadDec klen nlen => packFields nlen klen 0 0x31
  | .ctMemcmp => packFields 0 0 0 0x40
  | .zeroize => packFields 0 0 0 0xF0

/-- The `match` and `mask` columns of R101 for the row of a command. -/
def rowMatchMask : Instr → Word × Word
  | .salsa20CoreStream => (0x00000001, 0xFFFFFFFF)
  | .salsa20CoreHash => (0x00000101, 0xFFFFFFFF)
  | .hsalsa20 _ _ => (0x00000002, 0x0000FFFF)
  | .xsInit _ _ => (0x00000010, 0x0000FFFF)
  | .xsXor => (0x00000011, 0xFFFFFFFF)
  | .xsKeystream => (0x00000111, 0xFFFFFFFF)
  | .pInit _ => (0x00000020, 0xFF00FFFF)
  | .pUpdate => (0x00000021, 0xFFFFFFFF)
  | .pFinal => (0x00000022, 0xFFFFFFFF)
  | .aeadEnc _ _ => (0x00000030, 0x0000FFFF)
  | .aeadDec _ _ => (0x00000031, 0x0000FFFF)
  | .ctMemcmp => (0x00000040, 0xFFFFFFFF)
  | .zeroize => (0x000000F0, 0xFFFFFFFF)

/-- The command of each row of R101, in the table's order, with the length fields a word declares (R102). -/
def rowsOf (w : Word) : List Instr :=
  let k := (cmdKlen w).toNat
  let n := (cmdNlen w).toNat
  [.salsa20CoreStream, .salsa20CoreHash, .hsalsa20 k n, .xsInit k n, .xsXor, .xsKeystream, .pInit k, .pUpdate, .pFinal,
   .aeadEnc k n, .aeadDec k n, .ctMemcmp, .zeroize]

/-- The rows of R101 that a word matches: `(w & mask) = match`. -/
def matchingRows (w : Word) : List Instr :=
  (rowsOf w).filter fun i => w &&& (rowMatchMask i).2 == (rowMatchMask i).1

/-- The decoder on the bits `w` of a row of the opcode table, `nbits` of them; the bits above are 0. A command is one 32-bit
bus datum with bit 0 on the bus's bit 0 (R74(d), R100). -/
def decodeTableWord (nbits w : Nat) : Option Instr :=
  (decode (BitVec.ofNat 32 (w % 2 ^ nbits))).toOption

end Sys2Proof
end

