-- ==== Sys2Proof/Machine/State.lean ====
section
/-! DEFINITION. The state of the block as plain data (10_state.md R30), the moves of its agents, its faults, and reset (R54). -/

namespace Sys2Proof.Machine

/-- Why the machine stops. No command ends in one (R230). -/
inductive Fault where
  /-- The host-hazard fault of R270 (U2): the host touched the DMEM window while `BUSY` = 1. Raised by a host move. Safe: the
  spec gives the access no behaviour. -/
  | hostHazard
  /-- A bus access to an address outside the `0x0101_0000` bytes the block decodes (R70). Raised by a host move. Safe: no such
  access reaches the block (log 6). -/
  | addressNotDecoded
  deriving DecidableEq, Repr

/-- Why an instruction has no meaning. -/
inductive Refusal where
  /-- An arm of `exec` without a meaning. No arm of this model raises it. Safe: nothing can be proved of the instruction. -/
  | notModelled (mnemonic : String)
  deriving DecidableEq, Repr

/-- The error codes of R231, without `NONE`. -/
inductive ErrCode where
  | illegalCmd
  | invalidKeyLength
  | invalidNonceLength
  | invalidLength
  | notInitialised
  | addressRange
  | overlap
  | counterOverflow
  | authenticationFailure
  deriving DecidableEq, Repr

/-- DMEM (R71) as the cells that differ from an unlisted byte, addresses strictly rising (`Memory.wf`). -/
abbrev Memory := List Host.Cell

/-- The widths of a host access (R8, R73). -/
inductive Width where
  | w8
  | w16
  | w32
  deriving DecidableEq, Repr

/-- The datum of a host write, at its width. -/
inductive Datum where
  | d8 (v : BitVec 8)
  | d16 (v : BitVec 16)
  | d32 (v : BitVec 32)
  deriving DecidableEq, Repr

/-- One step of an agent (R7, R88). Bus addresses are absolute. -/
inductive Move where
  /-- The host reads at a bus address. -/
  | read (addr : Nat) (w : Width)
  /-- The host writes at a bus address. -/
  | write (addr : Nat) (d : Datum)
  /-- The reset input is asserted and released (R265, R266); `contents` is `DMEM_INIT` (R263), which the spec leaves open. -/
  | powerOn (contents : List Host.Cell)
  /-- The engine takes its turn (R240). -/
  | engine
  deriving DecidableEq, Repr

/-- The XSalsa20 streaming unit (R46). -/
structure XsUnit where
  /-- `XS_VALID` -/
  valid : Bool
  /-- `XS_KEY` -/
  key : Bytes 32
  /-- `XS_NT` -/
  nt : Bytes 8
  /-- `XS_NEXT`, 0 … 2^64 -/
  next : Nat
  /-- `KS_BUF` -/
  buf : Bytes 64
  /-- `XS_AVAIL`, 0 … 64 -/
  avail : Nat
  deriving DecidableEq, Repr

/-- The Poly1305 accumulator unit (R48). -/
structure PolyUnit where
  /-- `P_VALID` -/
  valid : Bool
  /-- `P_R` -/
  r : BitVec 128
  /-- `P_S` -/
  s : BitVec 128
  /-- `P_ACC`, below 2^130 − 5 -/
  acc : Nat
  /-- `P_BUF` -/
  buf : Bytes 16
  /-- `P_BUFLEN`, 0 … 15 -/
  bufLen : Nat
  deriving DecidableEq, Repr

/-- The streaming unit after reset and after `ZEROIZE` (R54, R220). -/
def XsUnit.cleared : XsUnit :=
  { valid := false, key := zeros 32, nt := zeros 8, next := 0, buf := zeros 64, avail := 0 }

/-- The accumulator unit after reset, `ZEROIZE` and `P.FINAL` (R54, R176, R220). -/
def PolyUnit.cleared : PolyUnit :=
  { valid := false, r := 0, s := 0, acc := 0, buf := zeros 16, bufLen := 0 }

/-- The state of the block (R30), with the model's own last four fields. -/
structure State where
  /-- `BUSY` (R44) -/
  busy : Bool
  /-- `DONE` (R44) -/
  done : Bool
  /-- `ERR` (R44) -/
  err : Bool
  /-- `CMD_LOST` (R44) -/
  cmdLost : Bool
  /-- `ERRCODE` (R44) -/
  errCode : BitVec 8
  /-- `CTRL.IRQ_EN` (R34) -/
  irqEn : Bool
  /-- `PEND_CMD` (R44) -/
  pendCmd : Word
  /-- `PEND_ARG[0..7]` (R44) -/
  pendArg : Vector Word 8
  /-- `ARG0`–`ARG7` (R31) -/
  arg : Vector Word 8
  /-- `RESULT` (R38) -/
  result : Word
  /-- the streaming unit (R46) -/
  xs : XsUnit
  /-- the accumulator unit (R48) -/
  poly : PolyUnit
  /-- `DMEM` (R71) -/
  dmem : Memory
  /-- The MODEL's field: the build's parameters (R6; log 3). -/
  build : Config.Build
  /-- The MODEL's field: the steps the agents will take, in order (R7, R241, R246; log 1). -/
  agenda : List Move
  /-- The MODEL's field: the datum the last host read returned (R8(c); log 7). -/
  busData : Word
  /-- The MODEL's field: how many aborted commands have drawn free bytes (R268, U3; log 5). -/
  freeCount : Nat
  deriving DecidableEq, Repr

/-- The state after power-on reset (R54, R266) of the default build. DMEM lists nothing (DESIGN CHOICE, log 4). -/
def State.reset : State :=
  { busy := false, done := false, err := false, cmdLost := false, errCode := 0, irqEn := false,
    pendCmd := 0, pendArg := Vector.replicate 8 0, arg := Vector.replicate 8 0, result := 0,
    xs := XsUnit.cleared, poly := PolyUnit.cleared, dmem := [],
    build := Config.defaultBuild, agenda := [], busData := 0, freeCount := 0 }

end Sys2Proof.Machine
end

