-- ==== Sys2Proof/Machine/Flags.lean ====
section
/-! DEFINITION. Error codes, the STATUS and CTRL words, the W1C rule and the interrupt output (10_state.md R34–R36, 60_exceptions.md
R231, R244, R245). -/

namespace Sys2Proof.Machine

/-- The numbering of R231. -/
def ErrCode.code : ErrCode → BitVec 8
  | .illegalCmd => 0x01
  | .invalidKeyLength => 0x02
  | .invalidNonceLength => 0x03
  | .invalidLength => 0x04
  | .notInitialised => 0x05
  | .addressRange => 0x06
  | .overlap => 0x07
  | .counterOverflow => 0x08
  | .authenticationFailure => 0x09

/-- `XS_END` is bit 64 of `XS_NEXT` (R35, R39). -/
def XsUnit.atEnd (u : XsUnit) : Bool := u.next.testBit 64

/-- The word a read of `STATUS` returns (R35). -/
def State.statusWord (s : State) : Word :=
  (0 : BitVec 13) ++ (BitVec.ofBool s.xs.atEnd ++ (BitVec.ofBool s.poly.valid ++ (BitVec.ofBool s.xs.valid ++
    (s.errCode ++ ((0 : BitVec 4) ++ (BitVec.ofBool s.cmdLost ++ (BitVec.ofBool s.err ++
      (BitVec.ofBool s.done ++ BitVec.ofBool s.busy))))))))

/-- The word a read of `CTRL` returns (R34): `SRESET` reads 0. -/
def State.ctrlWord (s : State) : Word := (0 : BitVec 30) ++ (BitVec.ofBool s.irqEn ++ (0 : BitVec 1))

/-- The write-1-to-clear rule of `STATUS` (R36); clearing `ERR` clears `ERRCODE`, and every other bit is ignored. -/
def State.clearStatus (s : State) (v : Word) : State :=
  { s with
    done := s.done && !v.getLsbD 1
    err := s.err && !v.getLsbD 2
    errCode := if v.getLsbD 2 then 0 else s.errCode
    cmdLost := s.cmdLost && !v.getLsbD 3 }

/-- The pending condition of the one interrupt source (R244). -/
def State.irqPending (s : State) : Bool := s.done || s.err

/-- The level of the `irq` output (R245). -/
def State.irq (s : State) : Bool := s.irqEn && s.irqPending

end Sys2Proof.Machine
end

