-- ==== Sys2Proof/Machine/Memory.lean ====
section
/-! DEFINITION. DMEM as a canonical list of cells (20_memory.md R71): reading and writing bytes and byte strings. -/

namespace Sys2Proof.Machine

/-- What a byte that is not listed reads as. DESIGN CHOICE (log 4): DMEM after power-on is unspecified (R263, U1). -/
def Memory.unlisted : Byte := 0

/-- The canonical form: addresses strictly rising, and no cell equal to an unlisted byte. -/
abbrev Memory.wf (m : Memory) : Prop :=
  m.Pairwise (fun c d => c.1 < d.1) ∧ ∀ c ∈ m, c.2 ≠ Memory.unlisted

/-- The byte at an address. -/
def Memory.read : Memory → Nat → Byte
  | [], _ => Memory.unlisted
  | (k, b) :: rest, a => if k = a then b else Memory.read rest a

/-- A cell put in front, unless it is what an unlisted byte reads as. -/
def Memory.cons (a : Nat) (v : Byte) (m : Memory) : Memory :=
  if v = Memory.unlisted then m else (a, v) :: m

/-- Writing one byte, in canonical form. -/
def Memory.write : Memory → Nat → Byte → Memory
  | [], a, v => Memory.cons a v []
  | (k, b) :: rest, a, v =>
    if a < k then Memory.cons a v ((k, b) :: rest)
    else if a = k then Memory.cons a v rest
    else (k, b) :: Memory.write rest a v

/-- `DMEM[a : a+n]` (R78). -/
def Memory.readBytes (m : Memory) (a : Nat) : Nat → List Byte
  | 0 => []
  | n + 1 => m.read a :: Memory.readBytes m (a + 1) n

/-- `DMEM[a+i] <- v[i]` for i < n (R78). -/
def Memory.writeBytes (m : Memory) (a : Nat) : List Byte → Memory
  | [] => m
  | v :: vs => Memory.writeBytes (m.write a v) (a + 1) vs

/-- A memory of `size` bytes from contents in any order. DESIGN CHOICE: a later cell wins, and a cell outside the memory is
dropped (log 14). -/
def Memory.ofCells (size : Nat) (contents : List Host.Cell) : Memory :=
  contents.foldl (fun m c => if c.1 < size then m.write c.1 c.2 else m) []

end Sys2Proof.Machine
end

