-- ==== Sys2Proof/Machine/Operands.lean ====
section
/-! DEFINITION. The operands of commands: latched arguments and regions (20_memory.md R75–R77, 30_encoding.md R110). -/

namespace Sys2Proof.Machine

/-- `x[i]`: the latched argument (R14), an unsigned 32-bit value (R102). -/
def State.x (s : State) (i : Fin 8) : Nat := (s.pendArg[i]).toNat

/-- A region `(a, n)` (R75): the addresses a … a+n−1, as unbounded naturals. -/
structure Region where
  addr : Nat
  len : Nat
  deriving DecidableEq, Repr

/-- R75: a region is valid when it is empty or ends within DMEM. -/
def Region.valid (size : Nat) (r : Region) : Bool := decide (r.len = 0 ∨ r.addr + r.len ≤ size)

/-- R77: two regions that share no address. -/
def Region.disjoint (a b : Region) : Bool :=
  decide (a.len = 0 ∨ b.len = 0 ∨ a.addr + a.len ≤ b.addr ∨ b.addr + b.len ≤ a.addr)

/-- R77: the relation a streaming input and output must be in. -/
def Region.identicalOrDisjoint (a b : Region) : Bool := decide (a = b) || Region.disjoint a b

/-- Whether an address lies in a region. -/
def Region.covers (r : Region) (a : Nat) : Bool := decide (r.addr ≤ a ∧ a < r.addr + r.len)

/-- All regions of a command are valid (R75, R239 item 5). -/
def State.regionsValid (s : State) (rs : List Region) : Bool := rs.all (Region.valid s.build.dmemSize)

/-- A region at `x[i]` of a fixed length ("(n)" in R110). -/
def State.fixedRegion (s : State) (i : Fin 8) (n : Nat) : Region := ⟨s.x i, n⟩

/-- A region at `x[i]` whose length is `x[j]` ("(len)" in R110). -/
def State.lenRegion (s : State) (i j : Fin 8) : Region := ⟨s.x i, s.x j⟩

/-! The rows of R110, one name per region. -/

/-- `SALSA20.CORE`: input (64). -/
def coreIn (s : State) : Region := s.fixedRegion 0 64
/-- `SALSA20.CORE`: output (64). -/
def coreOut (s : State) : Region := s.fixedRegion 1 64
/-- `HSALSA20`: key (32). -/
def hsKey (s : State) : Region := s.fixedRegion 0 32
/-- `HSALSA20`: nonceHead (16). -/
def hsNonceHead (s : State) : Region := s.fixedRegion 1 16
/-- `HSALSA20`: subkey output (32). -/
def hsOut (s : State) : Region := s.fixedRegion 2 32
/-- `XS.INIT`: key (32). -/
def xsKeyIn (s : State) : Region := s.fixedRegion 0 32
/-- `XS.INIT`: nonce (24). -/
def xsNonceIn (s : State) : Region := s.fixedRegion 1 24
/-- `XS.XOR`: input (len `x[2]`). -/
def xsIn (s : State) : Region := s.lenRegion 0 2
/-- `XS.XOR` and `XS.KEYSTREAM`: output (len `x[2]`). -/
def xsOut (s : State) : Region := s.lenRegion 1 2
/-- `P.INIT`: key (32). -/
def pKeyIn (s : State) : Region := s.fixedRegion 0 32
/-- `P.UPDATE`: message (len `x[1]`). -/
def pMsgIn (s : State) : Region := s.lenRegion 0 1
/-- `P.FINAL`: tag output (16). -/
def pTagOut (s : State) : Region := s.fixedRegion 0 16
/-- `AEAD.ENC` and `AEAD.DEC`: key (32). -/
def aeadKeyIn (s : State) : Region := s.fixedRegion 0 32
/-- `AEAD.ENC` and `AEAD.DEC`: nonce (24). -/
def aeadNonceIn (s : State) : Region := s.fixedRegion 1 24
/-- `AEAD.ENC`: plaintext; `AEAD.DEC`: ciphertext (len `x[3]`). -/
def aeadBodyIn (s : State) : Region := s.lenRegion 2 3
/-- `AEAD.ENC`: ciphertext output (len `x[3]`). -/
def encBodyOut (s : State) : Region := s.lenRegion 4 3
/-- `AEAD.ENC`: tag output (16). -/
def encTagOut (s : State) : Region := s.fixedRegion 5 16
/-- `AEAD.DEC`: tag input (16). -/
def decTagIn (s : State) : Region := s.fixedRegion 4 16
/-- `AEAD.DEC`: plaintext output (len `x[3]`). -/
def decBodyOut (s : State) : Region := s.lenRegion 5 3
/-- `CT.MEMCMP`: A (len `x[2]`). -/
def cmpA (s : State) : Region := s.lenRegion 0 2
/-- `CT.MEMCMP`: B (len `x[2]`). -/
def cmpB (s : State) : Region := s.lenRegion 1 2

end Sys2Proof.Machine
end

