-- ==== Sys2Proof/Machine/Ops.lean ====
section
/-! DEFINITION. The shared operations over the state: memory primitives, errors, completion, issue and the reset values. -/

namespace Sys2Proof.Machine

/-- `MemRead(a, n)` of R78. -/
def State.memRead (s : State) (r : Region) : List Byte := s.dmem.readBytes r.addr r.len

/-- `MemWrite(a, n, v)` of R78; `v` has the region's length. -/
def State.memWrite (s : State) (r : Region) (v : List Byte) : State :=
  { s with dmem := s.dmem.writeBytes r.addr v }

/-- The first check of a command that fails, with its code; the list is in the priority order of R239. -/
def firstError : List (Bool × ErrCode) → Option ErrCode
  | [] => none
  | (ok, e) :: rest => if ok then firstError rest else some e

/-- `raise E` and completion with an error (R238, R240): only `BUSY`, `ERR` and `ERRCODE` change. This is the block's whole
"taking of an exception": it takes no trap, saves nothing and goes nowhere (R230, R242), and there is no return (R243). -/
def State.raise (s : State) (e : ErrCode) : State := { s with err := true, errCode := e.code, busy := false }

/-- Completion without error (R240): `DONE` is set and `BUSY` cleared. -/
def State.finish (s : State) : State := { s with done := true, busy := false }

/-- The completion step of a decoded command (R240): the error its checks give, or its effect, which is computed only when the
checks have passed (R238). Transient state is no part of the state (R45, R221; log 8). -/
def conclude (s : State) (error : Option ErrCode) (effect : Unit → State) : Host.Outcome State Fault Refusal :=
  .next (match error with
    | some e => s.raise e
    | none => (effect ()).finish)

/-- The issue step of R236, taken while `BUSY` = 0. -/
def State.issue (s : State) (w : Word) : State :=
  { s with pendCmd := w, pendArg := s.arg, done := false, err := false, errCode := 0, busy := true }

/-- A host write to `CMD` (R37): issue (R236), or a lost command (R237). -/
def State.writeCmd (s : State) (w : Word) : State :=
  if s.busy then { s with cmdLost := true } else s.issue w

/-- Every element but DMEM at its reset value (R54); the model's own fields stay. -/
def State.clearAll (s : State) : State :=
  { s with
    busy := false, done := false, err := false, cmdLost := false, errCode := 0, irqEn := false,
    pendCmd := 0, pendArg := Vector.replicate 8 0, arg := Vector.replicate 8 0, result := 0,
    xs := XsUnit.cleared, poly := PolyUnit.cleared }

/-- Power-on reset (R266): every element at its reset value, and DMEM becomes `DMEM_INIT`. -/
def State.powerOnReset (s : State) (contents : List Host.Cell) : State :=
  { s.clearAll with dmem := Memory.ofCells s.build.dmemSize contents }

/-- Free bytes for a region of `n` bytes at `a` of the `k`-th aborted command (R268, U3). -/
def freeBytes (k a : Nat) : Nat → List Byte
  | 0 => []
  | n + 1 => Config.freeByte k a :: freeBytes k (a + 1) n

/-- R268: each byte of the regions an aborted command would have written holds any value. -/
def State.scramble (s : State) (rs : List Region) : State :=
  { s with
    dmem := rs.foldl (fun m r => m.writeBytes r.addr (freeBytes s.freeCount r.addr r.len)) s.dmem
    freeCount := s.freeCount + 1 }

end Sys2Proof.Machine
end

