-- ==== Sys2Proof/Machine/AeadCommands.lean ====
section
/-! DEFINITION. AEAD.ENC, AEAD.DEC and CT.MEMCMP (44_aead.md R192–R195, 45_ct_memcmp.md R211). -/

namespace Sys2Proof.Machine

/-- Check 5 of R192 and R193: the body length is within both ceilings. -/
def aeadLengthOk (s : State) : Bool :=
  decide (s.x 3 ≤ s.build.aeadMaxLen ∧ ceilDiv (s.x 3) 64 ≤ s.build.ctrLimit)

/-- The checks of `AEAD.ENC` in order (R192). -/
def aeadEncError (klen nlen : Nat) (s : State) : Option ErrCode :=
  firstError [(klen == 32, .invalidKeyLength), (nlen == 24, .invalidNonceLength),
    (s.regionsValid [aeadKeyIn s, aeadNonceIn s, aeadBodyIn s, encBodyOut s, encTagOut s], .addressRange),
    ((aeadBodyIn s).identicalOrDisjoint (encBodyOut s) && (encTagOut s).disjoint (aeadBodyIn s)
      && (encTagOut s).disjoint (encBodyOut s), .overlap),
    (aeadLengthOk s, .counterOverflow)]

/-- What `AEAD.ENC` seals: the tag and the ciphertext body (R192). -/
def aeadEncSealed (s : State) : List Byte × List Byte :=
  aeadSeal (s.memRead (aeadKeyIn s)) (s.memRead (aeadNonceIn s)) (s.memRead (aeadBodyIn s))

/-- `AEAD.ENC` (R192): the body is written, then the tag. -/
def execAeadEnc (klen nlen : Nat) (s : State) : Host.Outcome State Fault Refusal :=
  conclude s (aeadEncError klen nlen s) fun _ =>
    let sealed := aeadEncSealed s
    (s.memWrite (encBodyOut s) sealed.2).memWrite (encTagOut s) sealed.1

/-- What `AEAD.DEC` opens: the plaintext, or `none` when the tag does not verify (R193, R194). -/
def aeadDecOpened (s : State) : Option (List Byte) :=
  aeadOpen (s.memRead (aeadKeyIn s)) (s.memRead (aeadNonceIn s)) (s.memRead (aeadBodyIn s)) (s.memRead (decTagIn s))

/-- Checks 1 to 5 of `AEAD.DEC` in order (R193). -/
def aeadDecOperandError (klen nlen : Nat) (s : State) : Option ErrCode :=
  firstError [(klen == 32, .invalidKeyLength), (nlen == 24, .invalidNonceLength),
    (s.regionsValid [aeadKeyIn s, aeadNonceIn s, aeadBodyIn s, decTagIn s, decBodyOut s], .addressRange),
    ((aeadBodyIn s).identicalOrDisjoint (decBodyOut s) && (decTagIn s).disjoint (decBodyOut s), .overlap),
    (aeadLengthOk s, .counterOverflow)]

/-- The checks of `AEAD.DEC`: the tag is verified last, and only when the others have passed (R193). -/
def aeadDecError (klen nlen : Nat) (s : State) : Option ErrCode :=
  match aeadDecOperandError klen nlen s with
  | some e => some e
  | none => firstError [((aeadDecOpened s).isSome, .authenticationFailure)]

/-- `AEAD.DEC` (R193): the plaintext is written only after every check, the tag's among them, has passed. -/
def execAeadDec (klen nlen : Nat) (s : State) : Host.Outcome State Fault Refusal :=
  conclude s (aeadDecError klen nlen s) fun _ =>
    match aeadDecOpened s with
    | some pt => s.memWrite (decBodyOut s) pt
    | none => s

/-- The checks of `CT.MEMCMP` (R211). -/
def ctMemcmpError (s : State) : Option ErrCode :=
  firstError [(s.regionsValid [cmpA s, cmpB s], .addressRange)]

/-- `CT.MEMCMP` (R211): `RESULT` is 0 for equal and 1 for different. -/
def execCtMemcmp (s : State) : Host.Outcome State Fault Refusal :=
  conclude s (ctMemcmpError s) fun _ =>
    { s with result := if ctEq (s.memRead (cmpA s)) (s.memRead (cmpB s)) (s.x 2) then 0 else 1 }

end Sys2Proof.Machine
end

