-- ==== Sys2Proof/Machine/ControlCommands.lean ====
section
/-! DEFINITION. ZEROIZE (46_control.md R220). -/

namespace Sys2Proof.Machine

/-- `ZEROIZE` (R220): both units and `RESULT` are cleared; nothing is checked. -/
def execZeroize (s : State) : Host.Outcome State Fault Refusal :=
  conclude s none fun _ => { s with xs := XsUnit.cleared, poly := PolyUnit.cleared, result := 0 }

end Sys2Proof.Machine
end

