-- ==== Sys2Proof/Machine/CoreCommands.lean ====
section
/-! DEFINITION. SALSA20.CORE.STREAM, SALSA20.CORE.HASH and HSALSA20 (40_salsa20_core.md R129, R130; 41_hsalsa20.md R141). -/

namespace Sys2Proof.Machine

/-- The checks of both core commands (R129, R130). -/
def coreError (s : State) : Option ErrCode :=
  firstError [(s.regionsValid [coreIn s, coreOut s], .addressRange)]

/-- `SALSA20.CORE.STREAM` (R129). -/
def execSalsa20CoreStream (s : State) : Host.Outcome State Fault Refusal :=
  conclude s (coreError s) fun _ => s.memWrite (coreOut s) (coreStream (s.memRead (coreIn s)))

/-- `SALSA20.CORE.HASH` (R130). -/
def execSalsa20CoreHash (s : State) : Host.Outcome State Fault Refusal :=
  conclude s (coreError s) fun _ => s.memWrite (coreOut s) (coreHash (s.memRead (coreIn s)))

/-- The checks of `HSALSA20` in order (R141). -/
def hsalsa20Error (klen nlen : Nat) (s : State) : Option ErrCode :=
  firstError [(klen == 32, .invalidLength), (nlen == 16, .invalidLength),
    (s.regionsValid [hsKey s, hsNonceHead s, hsOut s], .addressRange)]

/-- `HSALSA20` (R141). -/
def execHsalsa20 (klen nlen : Nat) (s : State) : Host.Outcome State Fault Refusal :=
  conclude s (hsalsa20Error klen nlen s) fun _ =>
    s.memWrite (hsOut s) (hsalsa20Fn (s.memRead (hsKey s)) (s.memRead (hsNonceHead s)))

end Sys2Proof.Machine
end

