-- ==== Sys2Proof/Machine/PolyCommands.lean ====
section
/-! DEFINITION. The Poly1305 accumulator unit: P.INIT, P.UPDATE, P.FINAL (43_poly1305.md R174–R176). -/

namespace Sys2Proof.Machine

/-- The unit after the one-time key `k` is loaded (R174). -/
def polyLoaded (k : List Byte) : PolyUnit :=
  { valid := true, r := polyR k, s := polyS k, acc := 0, buf := zeros 16, bufLen := 0 }

/-- The loop body of `P.UPDATE` (R175): one byte into the buffer, and the buffer absorbed when it is full. -/
def polyAbsorbByte (u : PolyUnit) (b : Byte) : PolyUnit :=
  let buf := u.buf.setIfInBounds u.bufLen b
  if u.bufLen + 1 = 16 then { u with acc := pBlock u.acc u.r.toNat buf.toList, buf := zeros 16, bufLen := 0 }
  else { u with buf := buf, bufLen := u.bufLen + 1 }

/-- The loop of `P.UPDATE` over the message bytes (R175). -/
def polyAbsorb (u : PolyUnit) (m : List Byte) : PolyUnit := m.foldl polyAbsorbByte u

/-- The accumulator after the partial chunk, if there is one, is absorbed (R176). -/
def polyFinalAcc (u : PolyUnit) : Nat :=
  if 0 < u.bufLen then pBlock u.acc u.r.toNat (u.buf.toList.take u.bufLen) else u.acc

/-- The tag of `P.FINAL` (R176). -/
def polyFinalTag (u : PolyUnit) : List Byte := polyTag (polyFinalAcc u) u.s.toNat

/-- The checks of `P.INIT` in order (R174). -/
def pInitError (klen : Nat) (s : State) : Option ErrCode :=
  firstError [(klen == 32, .invalidKeyLength), (s.regionsValid [pKeyIn s], .addressRange)]

/-- `P.INIT` (R174). -/
def execPInit (klen : Nat) (s : State) : Host.Outcome State Fault Refusal :=
  conclude s (pInitError klen s) fun _ => { s with poly := polyLoaded (s.memRead (pKeyIn s)) }

/-- The checks of `P.UPDATE` in order (R175). -/
def pUpdateError (s : State) : Option ErrCode :=
  firstError [(s.poly.valid, .notInitialised), (s.regionsValid [pMsgIn s], .addressRange)]

/-- `P.UPDATE` (R175). -/
def execPUpdate (s : State) : Host.Outcome State Fault Refusal :=
  conclude s (pUpdateError s) fun _ => { s with poly := polyAbsorb s.poly (s.memRead (pMsgIn s)) }

/-- The checks of `P.FINAL` in order (R176). -/
def pFinalError (s : State) : Option ErrCode :=
  firstError [(s.poly.valid, .notInitialised), (s.regionsValid [pTagOut s], .addressRange)]

/-- `P.FINAL` (R176): the tag is written and the unit cleared. -/
def execPFinal (s : State) : Host.Outcome State Fault Refusal :=
  conclude s (pFinalError s) fun _ =>
    { s.memWrite (pTagOut s) (polyFinalTag s.poly) with poly := PolyUnit.cleared }

end Sys2Proof.Machine
end

