-- ==== Sys2Proof/Machine/StreamCommands.lean ====
section
/-! DEFINITION. The XSalsa20 streaming unit: XS.INIT, XS.XOR, XS.KEYSTREAM (42_xsalsa20_stream.md R152–R156). -/

namespace Sys2Proof.Machine

/-- The unit after a stream of key `k` and nonce `n` is loaded (R153). -/
def xsLoaded (k n : List Byte) : XsUnit :=
  { valid := true, key := bytesFrom 32 (hsalsa20Fn k (slice n 0 16)), nt := bytesFrom 8 (slice n 16 24),
    next := 0, buf := zeros 64, avail := 0 }

/-- `need(L)` of R154: how many blocks a request of `len` bytes generates. -/
def xsNeed (u : XsUnit) (len : Nat) : Nat := if len ≤ u.avail then 0 else ceilDiv (len - u.avail) 64

/-- `overflow(L)` of R154. -/
def xsOverflow (ctrLimit : Nat) (u : XsUnit) (len : Nat) : Bool :=
  decide (0 < xsNeed u len ∧ ctrLimit < u.next + xsNeed u len - 1)

/-- The block generation of `XS_TAKE` (R154): only when no unused byte is left. -/
def xsRefill (u : XsUnit) : XsUnit :=
  if u.avail = 0 then
    { u with buf := bytesFrom 64 (salsa20Block u.key.toList u.nt.toList u.next), next := u.next + 1, avail := 64 }
  else u

/-- The next keystream byte of the unit, `KS_BUF[64 − XS_AVAIL]` (R46). -/
def xsNextByte (u : XsUnit) : Byte := u.buf.toList.getD (64 - u.avail) 0

/-- One round of the loop of `XS_TAKE` on the unit (R154). -/
def xsAdvance (u : XsUnit) : XsUnit := { xsRefill u with avail := (xsRefill u).avail - 1 }

/-- `XS_TAKE(L)` (R154): the bytes taken and the unit after. -/
def xsTake : Nat → XsUnit → List Byte × XsUnit
  | 0, u => ([], u)
  | n + 1, u =>
    let rest := xsTake n (xsAdvance u)
    (xsNextByte (xsRefill u) :: rest.1, rest.2)

/-- The checks of `XS.INIT` in order (R153). -/
def xsInitError (klen nlen : Nat) (s : State) : Option ErrCode :=
  firstError [(klen == 32, .invalidKeyLength), (nlen == 24, .invalidNonceLength),
    (s.regionsValid [xsKeyIn s, xsNonceIn s], .addressRange)]

/-- `XS.INIT` (R153). -/
def execXsInit (klen nlen : Nat) (s : State) : Host.Outcome State Fault Refusal :=
  conclude s (xsInitError klen nlen s) fun _ =>
    { s with xs := xsLoaded (s.memRead (xsKeyIn s)) (s.memRead (xsNonceIn s)) }

/-- The checks of `XS.XOR` in order (R155). -/
def xsXorError (s : State) : Option ErrCode :=
  firstError [(s.xs.valid, .notInitialised), (s.regionsValid [xsIn s, xsOut s], .addressRange),
    ((xsIn s).identicalOrDisjoint (xsOut s), .overlap),
    (!xsOverflow s.build.ctrLimit s.xs (s.x 2), .counterOverflow)]

/-- `XS.XOR` (R155). -/
def execXsXor (s : State) : Host.Outcome State Fault Refusal :=
  conclude s (xsXorError s) fun _ =>
    let taken := xsTake (s.x 2) s.xs
    { s.memWrite (xsOut s) (xorBytes (s.memRead (xsIn s)) taken.1) with xs := taken.2 }

/-- The checks of `XS.KEYSTREAM` in order (R156); `x[0]` is not checked. -/
def xsKeystreamError (s : State) : Option ErrCode :=
  firstError [(s.xs.valid, .notInitialised), (s.regionsValid [xsOut s], .addressRange),
    (!xsOverflow s.build.ctrLimit s.xs (s.x 2), .counterOverflow)]

/-- `XS.KEYSTREAM` (R156). -/
def execXsKeystream (s : State) : Host.Outcome State Fault Refusal :=
  conclude s (xsKeystreamError s) fun _ =>
    let taken := xsTake (s.x 2) s.xs
    { s.memWrite (xsOut s) taken.1 with xs := taken.2 }

end Sys2Proof.Machine
end

