-- ==== Sys2Proof/Machine/Dispatch.lean ====
section
/-! DEFINITION. The meaning of each command, one arm per row of 30_encoding.md R101. -/

namespace Sys2Proof.Machine

/-- The completion step of a decoded command on the latched arguments (R240). -/
def exec (i : Instr) (s : State) : Host.Outcome State Fault Refusal :=
  match i with
  | .salsa20CoreStream => Sys2Proof.Machine.execSalsa20CoreStream s
  | .salsa20CoreHash => Sys2Proof.Machine.execSalsa20CoreHash s
  | .hsalsa20 klen nlen => Sys2Proof.Machine.execHsalsa20 klen nlen s
  | .xsInit klen nlen => Sys2Proof.Machine.execXsInit klen nlen s
  | .xsXor => Sys2Proof.Machine.execXsXor s
  | .xsKeystream => Sys2Proof.Machine.execXsKeystream s
  | .pInit klen => Sys2Proof.Machine.execPInit klen s
  | .pUpdate => Sys2Proof.Machine.execPUpdate s
  | .pFinal => Sys2Proof.Machine.execPFinal s
  | .aeadEnc klen nlen => Sys2Proof.Machine.execAeadEnc klen nlen s
  | .aeadDec klen nlen => Sys2Proof.Machine.execAeadDec klen nlen s
  | .ctMemcmp => Sys2Proof.Machine.execCtMemcmp s
  | .zeroize => Sys2Proof.Machine.execZeroize s

end Sys2Proof.Machine
end

