-- ==== Sys2Proof/Machine/Footprint.lean ====
section
/-! DEFINITION. For each command: the error its checks give (60_exceptions.md R232), the regions it names, and the work it does
(30_encoding.md R110, 70_reset_and_hazards.md R268, R278, R279). -/

namespace Sys2Proof.Machine

/-- The error of a command's checks in the current state, if any (R232, R239). -/
def commandError (i : Instr) (s : State) : Option ErrCode :=
  match i with
  | .salsa20CoreStream => coreError s
  | .salsa20CoreHash => coreError s
  | .hsalsa20 klen nlen => hsalsa20Error klen nlen s
  | .xsInit klen nlen => xsInitError klen nlen s
  | .xsXor => xsXorError s
  | .xsKeystream => xsKeystreamError s
  | .pInit klen => pInitError klen s
  | .pUpdate => pUpdateError s
  | .pFinal => pFinalError s
  | .aeadEnc klen nlen => aeadEncError klen nlen s
  | .aeadDec klen nlen => aeadDecError klen nlen s
  | .ctMemcmp => ctMemcmpError s
  | .zeroize => none

/-- The DMEM regions a command reads when its checks pass, in its pseudocode's order (R110). -/
def readRegions (i : Instr) (s : State) : List Region :=
  match i with
  | .salsa20CoreStream => [coreIn s]
  | .salsa20CoreHash => [coreIn s]
  | .hsalsa20 _ _ => [hsKey s, hsNonceHead s]
  | .xsInit _ _ => [xsKeyIn s, xsNonceIn s]
  | .xsXor => [xsIn s]
  | .xsKeystream => []
  | .pInit _ => [pKeyIn s]
  | .pUpdate => [pMsgIn s]
  | .pFinal => []
  | .aeadEnc _ _ => [aeadKeyIn s, aeadNonceIn s, aeadBodyIn s]
  | .aeadDec _ _ => [aeadKeyIn s, aeadNonceIn s, aeadBodyIn s, decTagIn s]
  | .ctMemcmp => [cmpA s, cmpB s]
  | .zeroize => []

/-- The DMEM regions a command writes when its checks pass, in its pseudocode's order: the list of R268. -/
def writeRegions (i : Instr) (s : State) : List Region :=
  match i with
  | .salsa20CoreStream => [coreOut s]
  | .salsa20CoreHash => [coreOut s]
  | .hsalsa20 _ _ => [hsOut s]
  | .xsInit _ _ => []
  | .xsXor => [xsOut s]
  | .xsKeystream => [xsOut s]
  | .pInit _ => []
  | .pUpdate => []
  | .pFinal => [pTagOut s]
  | .aeadEnc _ _ => [encBodyOut s, encTagOut s]
  | .aeadDec _ _ => [decBodyOut s]
  | .ctMemcmp => []
  | .zeroize => []

/-- The regions the command in flight would write: none if its word is illegal or its checks fail (R268). -/
def pendingWrites (s : State) : List Region :=
  match decode s.pendCmd with
  | .ok i => if (commandError i s).isNone then writeRegions i s else []
  | .error _ => []

/-- The `PERM` column of R279: core permutations a command runs when it completes without error. -/
def permRuns (i : Instr) (s : State) : Nat :=
  match i with
  | .salsa20CoreStream => 1
  | .salsa20CoreHash => 1
  | .hsalsa20 _ _ => 1
  | .xsInit _ _ => 1
  | .xsXor => xsNeed s.xs (s.x 2)
  | .xsKeystream => xsNeed s.xs (s.x 2)
  | .pInit _ => 0
  | .pUpdate => 0
  | .pFinal => 0
  | .aeadEnc _ _ => 1 + 1 + ceilDiv (s.x 3) 64
  | .aeadDec _ _ => 1 + 1 + ceilDiv (s.x 3) 64
  | .ctMemcmp => 0
  | .zeroize => 0

/-- The `P_BLOCK` column of R279: chunk absorptions of a command that completes without error. -/
def pBlockRuns (i : Instr) (s : State) : Nat :=
  match i with
  | .salsa20CoreStream => 0
  | .salsa20CoreHash => 0
  | .hsalsa20 _ _ => 0
  | .xsInit _ _ => 0
  | .xsXor => 0
  | .xsKeystream => 0
  | .pInit _ => 0
  | .pUpdate => (s.poly.bufLen + s.x 1) / 16
  | .pFinal => if 0 < s.poly.bufLen then 1 else 0
  | .aeadEnc _ _ => ceilDiv (s.x 3) 16
  | .aeadDec _ _ => ceilDiv (s.x 3) 16
  | .ctMemcmp => 0
  | .zeroize => 0

end Sys2Proof.Machine
end

