-- ==== Sys2Proof/Machine/HostBus.lean ====
section
/-! DEFINITION. The host's moves: the register aperture, the DMEM window and the two resets (10_state.md R30–R43, 20_memory.md
R70–R73, R88, 70_reset_and_hazards.md R266–R270). -/

namespace Sys2Proof.Machine

/-- Where a bus address falls (R70). -/
inductive BusTarget where
  /-- the register aperture, at a byte offset below `0x100` -/
  | register (offset : Nat)
  /-- `BLOCK_BASE + 0x100` … `BLOCK_BASE + 0xFFFF` -/
  | gap
  /-- the DMEM window, at a local address below 2^24 -/
  | window (a : Nat)
  /-- not decoded by the block -/
  | outside
  deriving DecidableEq, Repr

/-- The address map of R70. DEDUCED: an access belongs to the space of its first byte (log 12). -/
def busTarget (b : Config.Build) (addr : Nat) : BusTarget :=
  if addr < b.blockBase then .outside
  else if addr - b.blockBase < 0x100 then .register (addr - b.blockBase)
  else if addr - b.blockBase < Config.dmemWindow then .gap
  else if addr - b.blockBase < Config.decodedSize then .window (addr - b.blockBase - Config.dmemWindow)
  else .outside

/-- The number of bytes of an access (R73). -/
def Width.bytes : Width → Nat
  | .w8 => 1
  | .w16 => 2
  | .w32 => 4

/-- The little-endian bytes of a written datum (R73, R74(d)). -/
def Datum.toBytes : Datum → List Byte
  | .d8 v => leBytes v.toNat 1
  | .d16 v => leBytes v.toNat 2
  | .d32 v => leBytes v.toNat 4

/-- The index of the argument register at an offset (R30, R31): `0x010 + 4·i`. -/
def argIndex (offset : Nat) : Option (Fin 8) :=
  if h : 0x010 ≤ offset ∧ offset < 0x030 then some ⟨(offset - 0x010) / 4, by omega⟩ else none

/-- The value of the register at an aligned offset (R30–R43); reserved offsets read 0. -/
def State.readRegister (s : State) (offset : Nat) : Word :=
  match argIndex offset with
  | some i => s.arg[i]
  | none =>
    match offset with
    | 0x000 => Config.idValue
    | 0x004 => s.ctrlWord
    | 0x008 => s.statusWord
    | 0x00C => s.pendCmd
    | 0x030 => s.result
    | 0x034 => BitVec.ofNat 32 s.xs.next
    | 0x038 => BitVec.ofNat 32 (s.xs.next / 2 ^ 32)
    | 0x03C => BitVec.ofNat 32 s.xs.avail
    | 0x040 => BitVec.ofNat 32 s.poly.bufLen
    | 0x044 => BitVec.ofNat 32 s.build.dmemSize
    | _ => 0

/-- Soft reset (R267): every element but DMEM at its reset value; a command in flight is aborted and its output regions hold
free bytes (R268). -/
def State.softReset (s : State) : State :=
  if s.busy then (s.scramble (pendingWrites s)).clearAll else s.clearAll

/-- A host write to `CTRL` (R34): bit 0 soft-resets and discards bit 1 of the same write; else bit 1 is `IRQ_EN`. -/
def State.writeCtrl (s : State) (v : Word) : State :=
  if v.getLsbD 0 then s.softReset else { s with irqEn := v.getLsbD 1 }

/-- A host write to the register at an aligned offset (R31–R43); read-only and reserved offsets ignore it. -/
def State.writeRegister (s : State) (offset : Nat) (v : Word) : State :=
  match argIndex offset with
  | some i => { s with arg := s.arg.set i v }
  | none =>
    match offset with
    | 0x004 => s.writeCtrl v
    | 0x008 => s.clearStatus v
    | 0x00C => s.writeCmd v
    | _ => s

/-- Whether a window access at local address `a` of `w` bytes is served (R73): aligned and within DMEM. -/
def windowServes (b : Config.Build) (a w : Nat) : Bool := decide (a % w = 0 ∧ a + w ≤ b.dmemSize)

/-- The datum a host read returns (R72, R73), a narrow one as the number R73 gives (log 7). An access that is not served
returns 0. -/
def State.readDatum (s : State) (t : BusTarget) (w : Width) : Word :=
  match t with
  | .register offset => if w = .w32 ∧ offset % 4 = 0 then s.readRegister offset else 0
  | .window a =>
    if windowServes s.build a w.bytes then BitVec.ofNat 32 (le (s.dmem.readBytes a w.bytes)) else 0
  | .gap => 0
  | .outside => 0

/-- The state after a host write is served (R72, R73); any other write is ignored. -/
def State.writeDatum (s : State) (t : BusTarget) (d : Datum) : State :=
  match t, d with
  | .register offset, .d32 v => if offset % 4 = 0 then s.writeRegister offset v else s
  | .window a, d =>
    if windowServes s.build a d.toBytes.length then { s with dmem := s.dmem.writeBytes a d.toBytes } else s
  | _, _ => s

/-- Why a host access stops the machine: the window while `BUSY` = 1 (R270), or an address the block does not decode (log 6). -/
def busFault (s : State) (t : BusTarget) : Option Fault :=
  match t with
  | .window _ => if s.busy then some .hostHazard else none
  | .outside => some .addressNotDecoded
  | .register _ => none
  | .gap => none

/-- A host read (R88). It changes nothing but the datum returned (R80). -/
def hostRead (s : State) (addr : Nat) (w : Width) : Host.Outcome State Fault Refusal :=
  match busFault s (busTarget s.build addr) with
  | some f => .fault f
  | none => .next { s with busData := s.readDatum (busTarget s.build addr) w }

/-- A host write (R88). -/
def hostWrite (s : State) (addr : Nat) (d : Datum) : Host.Outcome State Fault Refusal :=
  match busFault s (busTarget s.build addr) with
  | some f => .fault f
  | none => .next (s.writeDatum (busTarget s.build addr) d)

end Sys2Proof.Machine
end

