-- ==== Sys2Proof/Machine/Engine.lean ====
section
/-! DEFINITION. The engine's turn, the steps of the agents, and how a command word comes to be latched (00_scope.md R7,
60_exceptions.md R236, R240, R246). -/

namespace Sys2Proof.Machine

/-- The engine's turn (R240): while `BUSY` = 1 it decodes the latched word and completes the command, an illegal word with
`ILLEGAL_CMD` (R104); while `BUSY` = 0 it is idle and keeps all state (R253). -/
def engineTurn (s : State) : Host.Outcome State Fault Refusal :=
  if s.busy then
    match decode s.pendCmd with
    | .ok i => exec i s
    | .error _ => .next (s.raise .illegalCmd)
  else .next s

/-- One move of an agent, in the state where the move has left the agenda (R88). -/
def moveTurn (m : Move) (s : State) : Host.Outcome State Fault Refusal :=
  match m with
  | .read addr w => hostRead s addr w
  | .write addr d => hostWrite s addr d
  | .powerOn contents => .next (s.powerOnReset contents)
  | .engine => engineTurn s

/-- The next agent step (R7, R246): the first move of the agenda; the engine alone when the agenda is empty. -/
def agentStep (s : State) : Host.Outcome State Fault Refusal :=
  match s.agenda with
  | [] => engineTurn s
  | m :: rest => moveTurn m { s with agenda := rest }

/-- A command word latched as the issue step latches it (R236), with the engine's turn next (log 2). -/
def State.latchWord (s : State) (nbits w : Nat) : State :=
  { s.issue (BitVec.ofNat 32 (w % 2 ^ nbits)) with
    agenda := match s.agenda with
      | [] => []
      | m :: rest => .engine :: m :: rest }

end Sys2Proof.Machine
end

