-- ==== Sys2Proof/Machine/Step.lean ====
section
/-! DEFINITION. One step of the machine, and the placing of a command word where the next step runs it. -/

namespace Sys2Proof.Machine

/-- One agent step (R7, R280). -/
def step (s : State) : Host.Outcome State Fault Refusal := agentStep s

/-- The state in which the very next step runs the command word `w` (log 2). -/
def State.withFetchWord (s : State) (nbits w : Nat) : State := s.latchWord nbits w

end Sys2Proof.Machine
end

