-- ==== Sys2Proof/Safety.lean ====
section
/-! DEFINITION. The terms claims use: the invariant of every state between steps, what is hidden from the host, the causes of the
errors, and the closed forms of the two units. -/

namespace Sys2Proof.Machine

/-! The invariant. -/

/-- The streaming unit between commands (R46, R47, R154). -/
structure XsUnitInv (ctrLimit : Nat) (u : XsUnit) : Prop where
  avail_le : u.avail ≤ 64
  next_le : u.next ≤ ctrLimit + 1
  cleared : u.valid = false → u = XsUnit.cleared
  buffered : 0 < u.avail → 1 ≤ u.next ∧ u.buf.toList = salsa20Block u.key.toList u.nt.toList (u.next - 1)

/-- The accumulator unit between commands (R48, R49, R178). -/
structure PolyUnitInv (u : PolyUnit) : Prop where
  acc_lt : u.acc < p1305
  bufLen_le : u.bufLen ≤ 15
  cleared : u.valid = false → u = PolyUnit.cleared
  tail_zero : ∀ i : Fin 16, u.bufLen ≤ i.val → u.buf[i] = 0
  clamped : u.r &&& ~~~clamp = 0

/-- The invariant of every state between two steps: a legal build (R6), DMEM in canonical form and of the build's size (R71),
the `STATUS` relations (R35), a `RESULT` of one bit (R38), and the units' invariants (R47, R49). -/
structure Inv (s : State) : Prop where
  build_legal : s.build.legal
  dmem_wf : s.dmem.wf
  dmem_in_range : ∀ c ∈ s.dmem, c.1 < s.build.dmemSize
  done_err : ¬(s.done = true ∧ s.err = true)
  errCode_zero : s.errCode = 0 ↔ s.err = false
  errCode_le : s.errCode.toNat ≤ 9
  busy_clear : s.busy = true → s.done = false ∧ s.err = false
  result_le : s.result.toNat ≤ 1
  xs : XsUnitInv s.build.ctrLimit s.xs
  poly : PolyUnitInv s.poly

/-! Hidden state. -/

/-- The state with every element of R51 that no access may read blanked: `XS_KEY`, `XS_NT`, `KS_BUF`, `P_R`, `P_S`, `P_ACC`,
`P_BUF`. -/
def State.visible (s : State) : State :=
  { s with
    xs := { s.xs with key := zeros 32, nt := zeros 8, buf := zeros 64 }
    poly := { s.poly with r := 0, s := 0, acc := 0, buf := zeros 16 } }

/-- An outcome with the hidden elements of its next state blanked. -/
def visibleOutcome (o : Host.Outcome State Fault Refusal) : Host.Outcome State Fault Refusal :=
  match o with
  | .next t => .next t.visible
  | .fault f => .fault f
  | .refused r => .refused r

/-! The causes of the errors (R231), and the rank of R239, which is the order of the codes. -/

/-- The keystream body and expected tag that R191 compares, from the operands of `AEAD.DEC`. -/
def decExpectedTag (s : State) : List Byte :=
  poly1305Fn (slice (xsKs (s.memRead (aeadKeyIn s)) (s.memRead (aeadNonceIn s)) (64 + s.x 3)) 0 32) (s.memRead (aeadBodyIn s))

/-- Two regions share an address. -/
def Region.meets (a b : Region) : Prop := ∃ n, a.covers n = true ∧ b.covers n = true

/-- The cause R231 gives for each code, per command. -/
def errorCause (i : Instr) (s : State) (e : ErrCode) : Prop :=
  match e with
  | .illegalCmd => False
  | .invalidKeyLength =>
    match i with
    | .xsInit klen _ => klen ≠ 32
    | .pInit klen => klen ≠ 32
    | .aeadEnc klen _ => klen ≠ 32
    | .aeadDec klen _ => klen ≠ 32
    | _ => False
  | .invalidNonceLength =>
    match i with
    | .xsInit _ nlen => nlen ≠ 24
    | .aeadEnc _ nlen => nlen ≠ 24
    | .aeadDec _ nlen => nlen ≠ 24
    | _ => False
  | .invalidLength =>
    match i with
    | .hsalsa20 klen nlen => klen ≠ 32 ∨ nlen ≠ 16
    | _ => False
  | .notInitialised =>
    match i with
    | .xsXor => s.xs.valid = false
    | .xsKeystream => s.xs.valid = false
    | .pUpdate => s.poly.valid = false
    | .pFinal => s.poly.valid = false
    | _ => False
  | .addressRange => ∃ r ∈ readRegions i s ++ writeRegions i s, r.len ≠ 0 ∧ s.build.dmemSize < r.addr + r.len
  | .overlap =>
    match i with
    | .xsXor => xsIn s ≠ xsOut s ∧ (xsIn s).meets (xsOut s)
    | .aeadEnc _ _ =>
      (aeadBodyIn s ≠ encBodyOut s ∧ (aeadBodyIn s).meets (encBodyOut s)) ∨ (encTagOut s).meets (aeadBodyIn s)
        ∨ (encTagOut s).meets (encBodyOut s)
    | .aeadDec _ _ =>
      (aeadBodyIn s ≠ decBodyOut s ∧ (aeadBodyIn s).meets (decBodyOut s)) ∨ (decTagIn s).meets (decBodyOut s)
    | _ => False
  | .counterOverflow =>
    match i with
    | .xsXor => s.build.ctrLimit < s.xs.next + xsNeed s.xs (s.x 2) - 1 ∧ 0 < xsNeed s.xs (s.x 2)
    | .xsKeystream => s.build.ctrLimit < s.xs.next + xsNeed s.xs (s.x 2) - 1 ∧ 0 < xsNeed s.xs (s.x 2)
    | .aeadEnc _ _ => s.build.aeadMaxLen < s.x 3 ∨ s.build.ctrLimit < ceilDiv (s.x 3) 64
    | .aeadDec _ _ => s.build.aeadMaxLen < s.x 3 ∨ s.build.ctrLimit < ceilDiv (s.x 3) 64
    | _ => False
  | .authenticationFailure =>
    match i with
    | .aeadDec _ _ => decExpectedTag s ≠ s.memRead (decTagIn s)
    | _ => False

/-- The argument registers each command uses (R110). -/
def usedArgs : Instr → List (Fin 8)
  | .salsa20CoreStream => [0, 1]
  | .salsa20CoreHash => [0, 1]
  | .hsalsa20 _ _ => [0, 1, 2]
  | .xsInit _ _ => [0, 1]
  | .xsXor => [0, 1, 2]
  | .xsKeystream => [1, 2]
  | .pInit _ => [0]
  | .pUpdate => [0, 1]
  | .pFinal => [0]
  | .aeadEnc _ _ => [0, 1, 2, 3, 4, 5]
  | .aeadDec _ _ => [0, 1, 2, 3, 4, 5]
  | .ctMemcmp => [0, 1, 2]
  | .zeroize => []

/-! Closed forms of the units. -/

/-- The streaming unit with stream `k`, `n` loaded and `p` keystream bytes taken (R46, R157). -/
def xsAfter (k n : List Byte) (p : Nat) : XsUnit :=
  { xsLoaded k n with
    next := ceilDiv p 64
    buf := if p = 0 then zeros 64
      else bytesFrom 64 (salsa20Block (hsalsa20Fn k (slice n 0 16)) (slice n 16 24) (ceilDiv p 64 - 1))
    avail := 64 * ceilDiv p 64 - p }

/-- The accumulator unit with key `k` loaded and the bytes `m` given (R48, R177). -/
def polyAfter (k m : List Byte) : PolyUnit :=
  { polyLoaded k with
    acc := absorbChunks (polyR k).toNat (m.length / 16) 0 m
    buf := bytesFrom 16 (m.drop (16 * (m.length / 16)))
    bufLen := m.length % 16 }

/-! Host accesses. -/

/-- The next agent step is a 32-bit host write of `v` to the register at an offset (`wr` of R108). -/
abbrev State.hostWrites (s : State) (offset : Nat) (v : Word) (rest : List Move) : Prop :=
  s.agenda = .write (s.build.blockBase + offset) (.d32 v) :: rest

/-- The next agent step is a 32-bit host read of the register at an offset (`rd` of R108). -/
abbrev State.hostReads (s : State) (offset : Nat) (rest : List Move) : Prop :=
  s.agenda = .read (s.build.blockBase + offset) .w32 :: rest

/-- A byte of DMEM lies in none of the regions. -/
abbrev Region.outside (rs : List Region) (a : Nat) : Prop := ∀ r ∈ rs, r.covers a = false

end Sys2Proof.Machine
end

