-- ==== Sys2Proof/Certificates/Slice0/Obligations.lean ====
section
/-! DEFINITION. The statements about the block for the provers. Each docstring names the rule it rests on. -/

open Sys2Proof Sys2Proof.Machine

/-! ## Encoding -/

/-- R107: the canonical word of each command decodes to it. -/
def Obligations.CanonicalWordsDecode : Prop :=
  [0x00000001#32, 0x00000101#32, 0x10200002#32, 0x18200010#32, 0x00000011#32, 0x00000111#32, 0x00200020#32,
    0x00000021#32, 0x00000022#32, 0x18200030#32, 0x18200031#32, 0x00000040#32, 0x000000F0#32].map decode
  = [.ok .salsa20CoreStream, .ok .salsa20CoreHash, .ok (.hsalsa20 32 16), .ok (.xsInit 32 24), .ok .xsXor,
    .ok .xsKeystream, .ok (.pInit 32), .ok .pUpdate, .ok .pFinal, .ok (.aeadEnc 32 24), .ok (.aeadDec 32 24),
    .ok .ctMemcmp, .ok .zeroize]

/-- R100, R101: decoding the word of any well-formed command gives the command, with every length field. -/
def Obligations.DecodeOfEncodeIsTheCommand : Prop :=
  ∀ i : Instr, i.wellFormed = true → decode (encode i) = .ok i

/-- R101, R102: a word that decodes is the word of its command, which is well formed. -/
def Obligations.EncodeOfDecodeIsTheWord : Prop :=
  ∀ (w : Word) (i : Instr), decode w = .ok i → encode i = w ∧ i.wellFormed = true

/-- R104: a word decodes to the command of the one row of R101 it matches; a word that matches none completes with
`ILLEGAL_CMD` and no other effect. -/
def Obligations.DecodeFollowsTheMatchMaskTable : Prop :=
  (∀ (w : Word) (i : Instr), decode w = .ok i ↔ matchingRows w = [i]) ∧
  (∀ w : Word, (∀ i, matchingRows w ≠ [i]) → matchingRows w = [] ∧ ∃ e, decode w = .error e) ∧
  (∀ s : State, s.busy = true → (∀ i, matchingRows s.pendCmd ≠ [i]) →
    engineTurn s = .next { s with busy := false, err := true, errCode := 0x01 })

/-- R105: a word is illegal in exactly the cases (a) to (f), and completes with `ILLEGAL_CMD`. -/
def Obligations.IllegalWordsAreTheListedCases : Prop :=
  (∀ (s : State) (e : Illegal), s.busy = true → decode s.pendCmd = .error e →
    engineTurn s = .next { s with busy := false, err := true, errCode := 0x01 }) ∧
  ∀ w : Word, (∃ e, decode w = .error e) ↔
    (w.extractLsb' 0 8).toNat ∉ [0x01, 0x02, 0x10, 0x11, 0x20, 0x21, 0x22, 0x30, 0x31, 0x40, 0xF0] ∨
    w.extractLsb' 9 7 ≠ 0 ∨
    (w.getLsbD 8 = true ∧ (w.extractLsb' 0 8).toNat ∉ [0x01, 0x11]) ∨
    (w.extractLsb' 16 8 ≠ 0 ∧ (w.extractLsb' 0 8).toNat ∈ [0x01, 0x11, 0x21, 0x22, 0x40, 0xF0]) ∨
    (w.extractLsb' 24 8 ≠ 0 ∧ (w.extractLsb' 0 8).toNat ∈ [0x01, 0x11, 0x20, 0x21, 0x22, 0x40, 0xF0])

/-! ## Steps of the machine -/

/-- R240: when it is the engine's turn, `BUSY` = 1 and the latched word decodes, a step is the meaning of the command, on the
state with that turn taken. -/
def Obligations.StepRunsTheDecodedCommand : Prop :=
  ∀ (s : State) (i : Instr) (rest : List Move), s.busy = true → decode s.pendCmd = .ok i →
    (s.agenda = [] → step s = exec i s) ∧
    (s.agenda = .engine :: rest → step s = exec i { s with agenda := rest })

/-- R236, R240: a word placed by `withFetchWord` is what the very next step runs, latched as the issue step latches it (the
placing is the model's, log 2). -/
def Obligations.StepRunsAPlacedWord : Prop :=
  ∀ (s : State) (w : Nat) (i : Instr), decode (BitVec.ofNat 32 w) = .ok i →
    step (s.withFetchWord 32 w) = exec i (s.issue (BitVec.ofNat 32 w))

/-- R230, R270, R88, with the bounds of R70: a step never refuses, and it faults exactly on a host access to the window while
`BUSY` = 1, or to an address outside the block. Two clauses are the model's: the fault outside the block (DESIGN CHOICE, log 6);
and that an access is placed by its first byte, and that a misaligned or out-of-range window access while `BUSY` = 1 faults too
(DEDUCED, log 12). -/
def Obligations.StepFaultsOnlyOnHostAccesses : Prop :=
  ∀ s : State, (∀ r, step s ≠ .refused r) ∧
    ∀ f, step s = .fault f ↔
      ∃ addr rest, ((∃ w, s.agenda = .read addr w :: rest) ∨ (∃ d, s.agenda = .write addr d :: rest)) ∧
        ((f = .hostHazard ∧ s.busy = true ∧ s.build.blockBase + 0x10000 ≤ addr ∧
            addr < s.build.blockBase + 0x01010000) ∨
         (f = .addressNotDecoded ∧ (addr < s.build.blockBase ∨ s.build.blockBase + 0x01010000 ≤ addr)))

/-- R230, R240: every command, on every state, ends in a completion: with `DONE`, or with `ERR` and the code of its error. -/
def Obligations.EveryCommandCompletes : Prop :=
  ∀ (i : Instr) (s : State), ∃ t, exec i s = .next t ∧ t.busy = false ∧
    (commandError i s = none → t.done = true ∧ t.err = s.err ∧ t.errCode = s.errCode) ∧
    (∀ e, commandError i s = some e → t.done = s.done ∧ t.err = true ∧ t.errCode = e.code)

/-- R241, R240, R35: an engine left alone completes in one step, with exactly one of `DONE` and `ERR`, and `ERRCODE` nonzero
exactly with `ERR`. -/
def Obligations.BusyEngineCompletesInOneStep : Prop :=
  ∀ s : State, Inv s → s.busy = true → s.agenda = [] →
    ∃ t, step s = .next t ∧ t.busy = false ∧ t.done = !t.err ∧ (t.errCode ≠ 0 ↔ t.err = true)

/-! ## Errors -/

/-- R239: the error reported is the first, in the order of the codes, whose cause (R231) holds; `ILLEGAL_CMD` comes first. -/
def Obligations.ErrorsAreReportedInPriorityOrder : Prop :=
  (∀ (i : Instr) (s : State) (e : ErrCode), commandError i s = some e ↔
    errorCause i s e ∧ ∀ e', e'.code.toNat < e.code.toNat → ¬errorCause i s e') ∧
  (∀ (i : Instr) (s : State), commandError i s = none ↔ ∀ e, ¬errorCause i s e) ∧
  (∀ (s : State) (e : Illegal), s.busy = true → decode s.pendCmd = .error e →
    engineTurn s = .next (s.raise .illegalCmd))

/-- R238: a command that raises an error, or an illegal word, changes nothing but `BUSY`, `ERR` and `ERRCODE`. -/
def Obligations.FailedCommandChangesOnlyStatus : Prop :=
  (∀ (i : Instr) (s : State) (e : ErrCode), commandError i s = some e →
    exec i s = .next { s with busy := false, err := true, errCode := e.code }) ∧
  (∀ (s : State) (e : Illegal), s.busy = true → decode s.pendCmd = .error e →
    engineTurn s = .next { s with busy := false, err := true, errCode := ErrCode.illegalCmd.code })

/-- R235: the same command issued again on the state a failure left fails again in the same way. -/
def Obligations.FailedCommandFailsAgain : Prop :=
  ∀ (i : Instr) (s t : State) (e : ErrCode), s.arg = s.pendArg → commandError i s = some e → exec i s = .next t →
    ∃ u, exec i (t.issue (encode i)) = .next u ∧ u.err = true ∧ u.errCode = e.code ∧
      u.dmem = s.dmem ∧ u.xs = s.xs ∧ u.poly = s.poly ∧ u.result = s.result

/-! ## Frames over all commands -/

/-- R44, R50, R52: what no command changes, and which commands may change each unit and `RESULT`. -/
def Obligations.CommandsKeepEverythingElse : Prop :=
  ∀ (i : Instr) (s t : State), exec i s = .next t →
    t.arg = s.arg ∧ t.pendArg = s.pendArg ∧ t.pendCmd = s.pendCmd ∧ t.cmdLost = s.cmdLost ∧ t.irqEn = s.irqEn ∧
    t.build = s.build ∧ t.agenda = s.agenda ∧ t.busData = s.busData ∧ t.freeCount = s.freeCount ∧
    ((∀ k n, i ≠ .xsInit k n) → i ≠ .xsXor → i ≠ .xsKeystream → i ≠ .zeroize → t.xs = s.xs) ∧
    ((∀ k, i ≠ .pInit k) → i ≠ .pUpdate → i ≠ .pFinal → i ≠ .zeroize → t.poly = s.poly) ∧
    (i ≠ .ctMemcmp → i ≠ .zeroize → t.result = s.result)

/-- R223, R180, R222: a command changes no byte of DMEM outside the output regions R110 gives it; the commands without one
change no byte. -/
def Obligations.CommandsWriteOnlyTheirOutputRegions : Prop :=
  ∀ (i : Instr) (s t : State) (a : Nat), exec i s = .next t → Region.outside (writeRegions i s) a →
    t.dmem.read a = s.dmem.read a

/-- R110, R78: what a command does depends on no byte of DMEM outside its input regions. -/
def Obligations.CommandsReadOnlyTheirInputRegions : Prop :=
  ∀ (i : Instr) (s : State) (m : Memory), s.dmem.wf → m.wf →
    (∀ r ∈ readRegions i s, ∀ a, r.covers a = true → m.read a = s.dmem.read a) →
    commandError i { s with dmem := m } = commandError i s ∧
    ∃ t u, exec i s = .next t ∧ exec i { s with dmem := m } = .next u ∧ u = { t with dmem := u.dmem } ∧
      (commandError i s = none → ∀ r ∈ writeRegions i s, u.memRead r = t.memRead r)

/-- R110: a command ignores every argument not listed for it. -/
def Obligations.CommandsIgnoreUnlistedArguments : Prop :=
  ∀ (i : Instr) (s : State) (j : Fin 8) (v : Word), j ∉ usedArgs i →
    ∃ t, exec i s = .next t ∧
      exec i { s with pendArg := s.pendArg.set j v } = .next { t with pendArg := s.pendArg.set j v }

/-! ## The commands -/

/-- R129, R126: with both regions valid the command completes and writes the permuted input plus the input. -/
def Obligations.CoreStreamWritesTheBlock : Prop :=
  ∀ s : State, s.dmem.wf → s.x 0 + 64 ≤ s.build.dmemSize → s.x 1 + 64 ≤ s.build.dmemSize →
    let inp := blockOfWords (words (s.dmem.readBytes (s.x 0) 64))
    ∃ t, exec .salsa20CoreStream s = .next t ∧
      t.dmem.readBytes (s.x 1) 64 = bytesOf (List.zipWith (· + ·) (perm inp).toWords inp.toWords) ∧
      (∀ a, a < s.x 1 ∨ s.x 1 + 64 ≤ a → t.dmem.read a = s.dmem.read a) ∧
      t = { s with dmem := t.dmem, done := true, busy := false }

/-- R130, R125: the same without the feed-forward. -/
def Obligations.CoreHashWritesTheBlock : Prop :=
  ∀ s : State, s.dmem.wf → s.x 0 + 64 ≤ s.build.dmemSize → s.x 1 + 64 ≤ s.build.dmemSize →
    ∃ t, exec .salsa20CoreHash s = .next t ∧
      t.dmem.readBytes (s.x 1) 64 = bytesOf (perm (blockOfWords (words (s.dmem.readBytes (s.x 0) 64)))).toWords ∧
      (∀ a, a < s.x 1 ∨ s.x 1 + 64 ≤ a → t.dmem.read a = s.dmem.read a) ∧
      t = { s with dmem := t.dmem, done := true, busy := false }

/-- R141: with the required lengths and valid regions the command completes and writes the subkey. -/
def Obligations.HsalsaWritesTheSubkey : Prop :=
  ∀ s : State, s.dmem.wf → s.x 0 + 32 ≤ s.build.dmemSize → s.x 1 + 16 ≤ s.build.dmemSize →
    s.x 2 + 32 ≤ s.build.dmemSize →
    ∃ t, exec (.hsalsa20 32 16) s = .next t ∧
      t.dmem.readBytes (s.x 2) 32 = hsalsa20Fn (s.dmem.readBytes (s.x 0) 32) (s.dmem.readBytes (s.x 1) 16) ∧
      (∀ a, a < s.x 2 ∨ s.x 2 + 32 ≤ a → t.dmem.read a = s.dmem.read a) ∧
      t = { s with dmem := t.dmem, done := true, busy := false }

/-- R153: the unit holds the subkey and the nonce tail, at counter 0 with no buffered byte; nothing else changes. -/
def Obligations.XsInitLoadsTheStream : Prop :=
  ∀ s : State, s.x 0 + 32 ≤ s.build.dmemSize → s.x 1 + 24 ≤ s.build.dmemSize →
    let k := s.dmem.readBytes (s.x 0) 32
    let n := s.dmem.readBytes (s.x 1) 24
    ∃ u : XsUnit, exec (.xsInit 32 24) s = .next { s with xs := u, done := true, busy := false } ∧
      u.valid = true ∧ u.key.toList = hsalsa20Fn k (n.take 16) ∧ u.nt.toList = n.drop 16 ∧ u.next = 0 ∧
      u.buf = zeros 64 ∧ u.avail = 0

/-- R155: the output is the input XOR the next keystream bytes of the unit; the unit advances as `XS_TAKE` does. -/
def Obligations.XsXorWritesMessageXorKeystream : Prop :=
  ∀ s : State, s.dmem.wf → s.xs.valid = true →
    (s.x 2 = 0 ∨ s.x 0 + s.x 2 ≤ s.build.dmemSize ∧ s.x 1 + s.x 2 ≤ s.build.dmemSize) →
    (s.x 0 = s.x 1 ∨ s.x 2 = 0 ∨ s.x 0 + s.x 2 ≤ s.x 1 ∨ s.x 1 + s.x 2 ≤ s.x 0) →
    (xsNeed s.xs (s.x 2) = 0 ∨ s.xs.next + xsNeed s.xs (s.x 2) - 1 ≤ s.build.ctrLimit) →
    ∃ t, exec .xsXor s = .next t ∧
      t.dmem.readBytes (s.x 1) (s.x 2)
        = List.zipWith (· ^^^ ·) (s.dmem.readBytes (s.x 0) (s.x 2)) (xsTake (s.x 2) s.xs).1 ∧
      (∀ a, a < s.x 1 ∨ s.x 1 + s.x 2 ≤ a → t.dmem.read a = s.dmem.read a) ∧
      t = { s with dmem := t.dmem, xs := (xsTake (s.x 2) s.xs).2, done := true, busy := false }

/-- R156: the output is the next keystream bytes of the unit. -/
def Obligations.XsKeystreamWritesKeystream : Prop :=
  ∀ s : State, s.dmem.wf → s.xs.valid = true → (s.x 2 = 0 ∨ s.x 1 + s.x 2 ≤ s.build.dmemSize) →
    (xsNeed s.xs (s.x 2) = 0 ∨ s.xs.next + xsNeed s.xs (s.x 2) - 1 ≤ s.build.ctrLimit) →
    ∃ t, exec .xsKeystream s = .next t ∧
      t.dmem.readBytes (s.x 1) (s.x 2) = (xsTake (s.x 2) s.xs).1 ∧
      (∀ a, a < s.x 1 ∨ s.x 1 + s.x 2 ≤ a → t.dmem.read a = s.dmem.read a) ∧
      t = { s with dmem := t.dmem, xs := (xsTake (s.x 2) s.xs).2, done := true, busy := false }

/-- R174, R171: the unit holds the clamped `r` and `s` of the key, an empty accumulator and an empty buffer. -/
def Obligations.PInitLoadsTheKey : Prop :=
  ∀ s : State, s.x 0 + 32 ≤ s.build.dmemSize →
    ∃ u : PolyUnit, exec (.pInit 32) s = .next { s with poly := u, done := true, busy := false } ∧
      u.valid = true ∧
      u.r = BitVec.ofNat 128 (le (s.dmem.readBytes (s.x 0) 16)) &&& 0x0ffffffc0ffffffc0ffffffc0fffffff#128 ∧
      u.s.toNat = le (s.dmem.readBytes (s.x 0 + 16) 16) ∧ u.acc = 0 ∧ u.buf = zeros 16 ∧ u.bufLen = 0

/-- R175: the unit absorbs the message bytes one by one; `P_BUFLEN` becomes `(old + L) mod 16`; nothing else changes. -/
def Obligations.PUpdateAbsorbsTheMessage : Prop :=
  ∀ s : State, s.poly.valid = true → s.poly.bufLen ≤ 15 → (s.x 1 = 0 ∨ s.x 0 + s.x 1 ≤ s.build.dmemSize) →
    ∃ u : PolyUnit, exec .pUpdate s = .next { s with poly := u, done := true, busy := false } ∧
      u = (s.dmem.readBytes (s.x 0) (s.x 1)).foldl polyAbsorbByte s.poly ∧
      u.bufLen = (s.poly.bufLen + s.x 1) % 16 ∧ u.valid = true ∧ u.r = s.poly.r ∧ u.s = s.poly.s

/-- R176: the tag of the accumulator, with the partial chunk absorbed, is written, and the unit is cleared. -/
def Obligations.PFinalWritesTheTagAndClears : Prop :=
  ∀ s : State, s.dmem.wf → s.poly.valid = true → s.x 0 + 16 ≤ s.build.dmemSize →
    let chunk := s.poly.buf.toList.take s.poly.bufLen
    let acc := if 0 < s.poly.bufLen
      then ((s.poly.acc + (le chunk + 2 ^ (8 * chunk.length))) * s.poly.r.toNat) % (2 ^ 130 - 5) else s.poly.acc
    ∃ t, exec .pFinal s = .next t ∧
      le (t.dmem.readBytes (s.x 0) 16) = (acc + s.poly.s.toNat) % 2 ^ 128 ∧
      (∀ a, a < s.x 0 ∨ s.x 0 + 16 ≤ a → t.dmem.read a = s.dmem.read a) ∧
      t = { s with
        dmem := t.dmem
        poly := { valid := false, r := 0, s := 0, acc := 0, buf := zeros 16, bufLen := 0 }
        done := true, busy := false }

/-- R192, R190: the ciphertext body and the tag are written to their regions; nothing else changes. -/
def Obligations.AeadEncWritesBodyAndTag : Prop :=
  ∀ s : State, s.dmem.wf →
    s.regionsValid [aeadKeyIn s, aeadNonceIn s, aeadBodyIn s, encBodyOut s, encTagOut s] = true →
    (s.x 2 = s.x 4 ∨ Region.disjoint (aeadBodyIn s) (encBodyOut s) = true) →
    Region.disjoint (encTagOut s) (aeadBodyIn s) = true → Region.disjoint (encTagOut s) (encBodyOut s) = true →
    s.x 3 ≤ s.build.aeadMaxLen → (s.x 3 + 63) / 64 ≤ s.build.ctrLimit →
    let ks := xsKs (s.dmem.readBytes (s.x 0) 32) (s.dmem.readBytes (s.x 1) 24) (64 + s.x 3)
    let ct := List.zipWith (· ^^^ ·) (s.dmem.readBytes (s.x 2) (s.x 3)) (ks.drop 64)
    ∃ t, exec (.aeadEnc 32 24) s = .next t ∧
      t.dmem.readBytes (s.x 4) (s.x 3) = ct ∧ t.dmem.readBytes (s.x 5) 16 = poly1305Fn (ks.take 32) ct ∧
      (∀ a, Region.outside [encBodyOut s, encTagOut s] a → t.dmem.read a = s.dmem.read a) ∧
      t = { s with dmem := t.dmem, done := true, busy := false }

/-- R193, R191: with a tag that verifies, the plaintext is written; nothing else changes. -/
def Obligations.AeadDecWritesThePlaintext : Prop :=
  ∀ s : State, s.dmem.wf →
    s.regionsValid [aeadKeyIn s, aeadNonceIn s, aeadBodyIn s, decTagIn s, decBodyOut s] = true →
    (s.x 2 = s.x 5 ∨ Region.disjoint (aeadBodyIn s) (decBodyOut s) = true) →
    Region.disjoint (decTagIn s) (decBodyOut s) = true →
    s.x 3 ≤ s.build.aeadMaxLen → (s.x 3 + 63) / 64 ≤ s.build.ctrLimit →
    let ks := xsKs (s.dmem.readBytes (s.x 0) 32) (s.dmem.readBytes (s.x 1) 24) (64 + s.x 3)
    let ct := s.dmem.readBytes (s.x 2) (s.x 3)
    poly1305Fn (ks.take 32) ct = s.dmem.readBytes (s.x 4) 16 →
    ∃ t, exec (.aeadDec 32 24) s = .next t ∧
      t.dmem.readBytes (s.x 5) (s.x 3) = List.zipWith (· ^^^ ·) ct (ks.drop 64) ∧
      (∀ a, a < s.x 5 ∨ s.x 5 + s.x 3 ≤ a → t.dmem.read a = s.dmem.read a) ∧
      t = { s with dmem := t.dmem, done := true, busy := false }

/-- R195, R194: with a tag that does not verify, every byte of DMEM and every unit is unchanged, and `ERRCODE` is `0x09`
whichever bytes differ. -/
def Obligations.AeadDecRejectsAWrongTag : Prop :=
  ∀ s : State,
    s.regionsValid [aeadKeyIn s, aeadNonceIn s, aeadBodyIn s, decTagIn s, decBodyOut s] = true →
    (s.x 2 = s.x 5 ∨ Region.disjoint (aeadBodyIn s) (decBodyOut s) = true) →
    Region.disjoint (decTagIn s) (decBodyOut s) = true →
    s.x 3 ≤ s.build.aeadMaxLen → (s.x 3 + 63) / 64 ≤ s.build.ctrLimit →
    poly1305Fn ((xsKs (s.dmem.readBytes (s.x 0) 32) (s.dmem.readBytes (s.x 1) 24) (64 + s.x 3)).take 32)
      (s.dmem.readBytes (s.x 2) (s.x 3)) ≠ s.dmem.readBytes (s.x 4) 16 →
    exec (.aeadDec 32 24) s = .next { s with err := true, errCode := 0x09, busy := false }

/-- R211, R210: `RESULT` is 0 exactly when the two strings are equal, else 1; nothing else changes. -/
def Obligations.CtMemcmpReportsEquality : Prop :=
  ∀ s : State, (s.x 2 = 0 ∨ s.x 0 + s.x 2 ≤ s.build.dmemSize ∧ s.x 1 + s.x 2 ≤ s.build.dmemSize) →
    exec .ctMemcmp s = .next { s with
      result := if s.dmem.readBytes (s.x 0) (s.x 2) = s.dmem.readBytes (s.x 1) (s.x 2) then 0 else 1
      done := true, busy := false }

/-- R220: both units and `RESULT` are cleared, on every state; nothing else changes; the units then hold no key. -/
def Obligations.ZeroizeClearsTheUnits : Prop :=
  decode 0x000000F0#32 = .ok .zeroize ∧
  ∀ s : State, ∃ t, exec .zeroize s = .next t ∧
    t = { s with
      xs := { valid := false, key := zeros 32, nt := zeros 8, next := 0, buf := zeros 64, avail := 0 }
      poly := { valid := false, r := 0, s := 0, acc := 0, buf := zeros 16, bufLen := 0 }
      result := 0, done := true, busy := false } ∧
    commandError .xsXor t = some .notInitialised ∧ commandError .xsKeystream t = some .notInitialised ∧
    commandError .pUpdate t = some .notInitialised ∧ commandError .pFinal t = some .notInitialised

/-! ## The transforms and their laws -/

/-- R131(a), R131(b), R131(c): `PERM` keeps the zero state and is a bijection, as are the rounds it is made of; each word of the
stream output is the word of the hash output plus the word of the input. -/
def Obligations.PermutationLaws : Prop :=
  perm (blockOfWords []) = blockOfWords [] ∧
  (Function.Bijective (fun y : Word × Word × Word × Word => quarterround y.1 y.2.1 y.2.2.1 y.2.2.2) ∧
    Function.Bijective columnround ∧ Function.Bijective rowround ∧ Function.Bijective perm) ∧
  ∀ input : List Byte, input.length = 64 →
    words (coreStream input) = List.zipWith (· + ·) (words (coreHash input)) (words input)

/-- R151: XORing twice with the same key and nonce gives the message back. -/
def Obligations.XsalsaXorIsAnInvolution : Prop :=
  ∀ k n m : List Byte, xsXorFn k n (xsXorFn k n m) = m ∧
    xsXorFn k n m = List.zipWith (· ^^^ ·) m (xsKs k n m.length)

/-- R157 at one command: with `p` bytes of the stream `k`, `n` taken, a stream command of length `L` that passes its checks
uses keystream bytes `p … p+L−1`, and leaves `p + L` bytes taken; `XS.INIT` leaves 0 taken. -/
def Obligations.StreamCommandsContinueTheStream : Prop :=
  (∀ s : State, commandError (.xsInit 32 24) s = none →
    ∃ t, exec (.xsInit 32 24) s = .next t ∧ t.xs = xsAfter (s.memRead (xsKeyIn s)) (s.memRead (xsNonceIn s)) 0) ∧
  (∀ (s : State) (k n : List Byte) (p : Nat), s.dmem.wf → n.length = 24 → s.xs = xsAfter k n p →
    let ks := slice (xsKs k n (p + s.x 2)) p (p + s.x 2)
    (commandError .xsXor s = none → ∃ t, exec .xsXor s = .next t ∧
      t.memRead (xsOut s) = xorBytes (s.memRead (xsIn s)) ks ∧ t.xs = xsAfter k n (p + s.x 2)) ∧
    (commandError .xsKeystream s = none → ∃ t, exec .xsKeystream s = .next t ∧
      t.memRead (xsOut s) = ks ∧ t.xs = xsAfter k n (p + s.x 2)))

/-- R157: the bytes of a stream do not depend on how it is split into requests. -/
def Obligations.StreamBytesDoNotDependOnTheSplit : Prop :=
  ∀ (k n : List Byte) (before : List Nat) (len : Nat) (later : List Nat), n.length = 24 →
    (xsTake len (before.foldl (fun u l => (xsTake l u).2) (xsLoaded k n))).1
      = slice (xsKs k n (before ++ len :: later).sum) before.sum (before.sum + len)

/-- R154: a stream request generates exactly `need(L)` blocks, keeps the counter within the ceiling, and leaves the unused bytes
of the last block. -/
def Obligations.StreamRequestsGenerateOnlyNeededBlocks : Prop :=
  ∀ (u : XsUnit) (len ctrLimit : Nat), xsOverflow ctrLimit u len = false →
    (xsTake len u).2.next = u.next + xsNeed u len ∧
    (u.next ≤ ctrLimit + 1 → (xsTake len u).2.next ≤ ctrLimit + 1) ∧
    (xsTake len u).2.avail + len = u.avail + 64 * xsNeed u len ∧
    (xsTake len u).2.key = u.key ∧ (xsTake len u).2.nt = u.nt ∧ (xsTake len u).2.valid = u.valid

/-- R177 at one command: with key `k` loaded and the bytes `m` given, an update that passes its checks leaves the bytes `m` and
its message given, and a final writes the tag of `m`; `P.INIT` leaves nothing given. -/
def Obligations.AccumulatorCommandsComputeTheTag : Prop :=
  (∀ s : State, commandError (.pInit 32) s = none →
    ∃ t, exec (.pInit 32) s = .next t ∧ t.poly = polyAfter (s.memRead (pKeyIn s)) []) ∧
  (∀ (s : State) (k m : List Byte), s.dmem.wf → s.poly = polyAfter k m →
    (commandError .pUpdate s = none → ∃ t, exec .pUpdate s = .next t ∧
      t.poly = polyAfter k (m ++ s.memRead (pMsgIn s))) ∧
    (commandError .pFinal s = none → ∃ t, exec .pFinal s = .next t ∧
      t.memRead (pTagOut s) = poly1305Fn k m))

/-- R177: the tag does not depend on how the message is split into updates. -/
def Obligations.TagDoesNotDependOnTheSplit : Prop :=
  ∀ (k : List Byte) (ms : List (List Byte)),
    polyFinalTag (ms.foldl polyAbsorb (polyLoaded k)) = poly1305Fn k ms.flatten

/-- R178: the bounds of one absorption. -/
def Obligations.AbsorptionStaysInBounds : Prop :=
  ∀ (acc : Nat) (r : BitVec 128) (c : List Byte), acc < p1305 → r &&& ~~~clamp = 0 → c.length ≤ 16 →
    le c + 2 ^ (8 * c.length) ≤ 2 ^ 129 - 1 ∧ r.toNat ≤ clamp.toNat ∧ clamp.toNat < 2 ^ 124 ∧
    (acc + (le c + 2 ^ (8 * c.length))) * r.toNat < 2 ^ 255 ∧ pBlock acc r.toNat c < p1305

/-- R196(a), R196(b), R196(c): opening what was sealed gives the plaintext; the body has its length; every other tag fails. -/
def Obligations.OpenInvertsSeal : Prop :=
  ∀ k n pt : List Byte,
    aeadOpen k n (aeadSeal k n pt).2 (aeadSeal k n pt).1 = some pt ∧
    (aeadSeal k n pt).2.length = pt.length ∧ (aeadSeal k n pt).1.length = 16 ∧
    ∀ tag : List Byte, tag.length = 16 → tag ≠ (aeadSeal k n pt).1 → aeadOpen k n (aeadSeal k n pt).2 tag = none

/-- R196(a) at the commands: after `AEAD.ENC`, issuing `AEAD.DEC` on its outputs with the same key and nonce writes the
plaintext, wherever its checks allow the output. -/
def Obligations.AeadDecUndoesAeadEnc : Prop :=
  ∀ (s : State) (out : Word), s.dmem.wf → commandError (.aeadEnc 32 24) s = none →
    Region.disjoint (aeadKeyIn s) (encBodyOut s) = true → Region.disjoint (aeadKeyIn s) (encTagOut s) = true →
    Region.disjoint (aeadNonceIn s) (encBodyOut s) = true → Region.disjoint (aeadNonceIn s) (encTagOut s) = true →
    (s.x 3 = 0 ∨ out.toNat + s.x 3 ≤ s.build.dmemSize) →
    (out.toNat = s.x 4 ∨ Region.disjoint (encBodyOut s) ⟨out.toNat, s.x 3⟩ = true) →
    Region.disjoint (encTagOut s) ⟨out.toNat, s.x 3⟩ = true →
    ∃ t u, exec (.aeadEnc 32 24) s = .next t ∧
      exec (.aeadDec 32 24)
        (State.issue { t with
          arg := #v[s.pendArg[0], s.pendArg[1], s.pendArg[4], s.pendArg[3], s.pendArg[5], out, 0, 0] }
          (encode (.aeadDec 32 24))) = .next u ∧
      u.dmem.readBytes out.toNat (s.x 3) = s.dmem.readBytes (s.x 2) (s.x 3) ∧ u.done = true ∧ u.err = false

/-- R196(e), R196(f): sealing is what the streaming unit and the accumulator unit do: block 0 of the stream gives the key, the
next bytes the body, and the accumulator the tag. -/
def Obligations.SealIsTheUnitsComposed : Prop :=
  ∀ k n pt : List Byte, n.length = 24 →
    let block0 := xsTake 64 (xsLoaded k n)
    let ct := xorBytes pt (xsTake pt.length block0.2).1
    aeadSeal k n pt = (polyFinalTag (polyAbsorb (polyLoaded (block0.1.take 32)) ct), ct)

/-! ## The host's moves -/

/-- R236: a host write to `CMD` while `BUSY` = 0 issues the word, whatever it is. -/
def Obligations.CmdWriteIssues : Prop :=
  ∀ (s : State) (w : Word) (rest : List Move), s.busy = false → s.hostWrites 0x00C w rest →
    ∃ t, step s = .next t ∧ t = { s with
      agenda := rest, pendCmd := w, pendArg := s.arg, done := false, err := false, errCode := 0, busy := true } ∧
      t.statusWord.getLsbD 0 = true

/-- R237: a host write to `CMD` while `BUSY` = 1 changes nothing but `CMD_LOST`, which only a `STATUS` write with bit 3, a soft
reset or a power-on reset clears. -/
def Obligations.CmdWriteWhileBusyIsLost : Prop :=
  (∀ (s : State) (w : Word) (rest : List Move), s.busy = true → s.hostWrites 0x00C w rest →
    step s = .next { s with agenda := rest, cmdLost := true }) ∧
  (∀ s t : State, step s = .next t → s.cmdLost = true → t.cmdLost = false →
    ∃ rest, (∃ v, s.hostWrites 0x008 v rest ∧ v.getLsbD 3 = true) ∨ (∃ v, s.hostWrites 0x004 v rest ∧ v.getLsbD 0 = true) ∨
      (∃ c, s.agenda = .powerOn c :: rest))

/-- R36: what a host write to `STATUS` clears, whatever `BUSY` is. -/
def Obligations.StatusWriteClears : Prop :=
  ∀ (s : State) (v : Word) (rest : List Move), s.hostWrites 0x008 v rest →
    step s = .next { s with
      agenda := rest
      done := if v.getLsbD 1 = true then false else s.done
      err := if v.getLsbD 2 = true then false else s.err
      errCode := if v.getLsbD 2 = true then 0 else s.errCode
      cmdLost := if v.getLsbD 3 = true then false else s.cmdLost }

/-- R35: the fields of the `STATUS` word. -/
def Obligations.StatusWordHasItsFields : Prop :=
  ∀ s : State, s.statusWord.getLsbD 0 = s.busy ∧ s.statusWord.getLsbD 1 = s.done ∧ s.statusWord.getLsbD 2 = s.err ∧
    s.statusWord.getLsbD 3 = s.cmdLost ∧ s.statusWord.extractLsb' 4 4 = 0 ∧ s.statusWord.extractLsb' 8 8 = s.errCode ∧
    s.statusWord.getLsbD 16 = s.xs.valid ∧ s.statusWord.getLsbD 17 = s.poly.valid ∧
    s.statusWord.getLsbD 18 = s.xs.next.testBit 64 ∧ s.statusWord.extractLsb' 19 13 = 0

/-- R33, R34, R37–R43: what a host read of each register returns (kept in `busData`, log 7), a read changing nothing else (R80); writes to the read-only
and reserved registers change nothing; a `CTRL` write without `SRESET` stores `IRQ_EN` and nothing else. -/
def Obligations.RegistersAreMapped : Prop :=
  ∀ (s : State) (offset : Nat) (v : Word) (rest : List Move),
    (s.hostReads offset rest → offset % 4 = 0 →
      ((offset, v) ∈ [(0x000, 0x58530100), (0x004, if s.irqEn = true then 2 else 0), (0x008, s.statusWord),
          (0x00C, s.pendCmd), (0x030, s.result), (0x034, BitVec.ofNat 32 s.xs.next),
          (0x038, BitVec.ofNat 32 (s.xs.next >>> 32)), (0x03C, BitVec.ofNat 32 s.xs.avail),
          (0x040, BitVec.ofNat 32 s.poly.bufLen), (0x044, BitVec.ofNat 32 s.build.dmemSize)] ∨
        (0x048 ≤ offset ∧ offset ≤ 0xFF ∧ v = 0)) →
      step s = .next { s with agenda := rest, busData := v }) ∧
    (s.hostWrites offset v rest → (offset = 0x000 ∨ (0x030 ≤ offset ∧ offset ≤ 0xFF)) →
      step s = .next { s with agenda := rest }) ∧
    (s.hostWrites 0x004 v rest → v.getLsbD 0 = false →
      step s = .next { s with agenda := rest, irqEn := v.getLsbD 1 })

/-- R31: the argument registers are the host's alone, at any time, and a command reads the copy made at issue (`busData` is
where the model keeps the datum a host read returned, log 7). -/
def Obligations.ArgumentsAreTheHostsAlone : Prop :=
  ∀ s : State,
    (∀ (i : Fin 8) (v : Word) (rest : List Move), s.hostWrites (0x010 + 4 * i.val) v rest →
      step s = .next { s with agenda := rest, arg := s.arg.set i v }) ∧
    (∀ (i : Fin 8) (rest : List Move), s.hostReads (0x010 + 4 * i.val) rest →
      step s = .next { s with agenda := rest, busData := s.arg[i] }) ∧
    (∀ (w : Word) (rest : List Move), s.busy = false → s.hostWrites 0x00C w rest →
      ∃ t, step s = .next t ∧ t.pendArg = s.arg ∧ t.arg = s.arg) ∧
    (∀ t, engineTurn s = .next t → t.arg = s.arg ∧ t.pendArg = s.pendArg) ∧
    (∀ t, step s = .next t → t.arg ≠ s.arg → ∃ rest,
      (∃ (i : Fin 8) (v : Word), s.hostWrites (0x010 + 4 * i.val) v rest) ∨
      (∃ v, s.hostWrites 0x004 v rest ∧ v.getLsbD 0 = true) ∨ (∃ c, s.agenda = .powerOn c :: rest)) ∧
    (∀ (i : Instr) (v : Vector Word 8), ∃ t, exec i s = .next t ∧ exec i { s with arg := v } = .next { t with arg := v })

/-- R72: an access to the register aperture that is not 32 bits wide and aligned writes nothing and reads 0 (`busData` is where
the model keeps the datum a host read returned, log 7). -/
def Obligations.OtherRegisterAccessesAreIgnored : Prop :=
  ∀ (s : State) (offset : Nat) (rest : List Move), offset < 0x100 →
    (∀ w, (w ≠ .w32 ∨ offset % 4 ≠ 0) → s.agenda = .read (s.build.blockBase + offset) w :: rest →
      step s = .next { s with agenda := rest, busData := 0 }) ∧
    (∀ d, ((∀ v, d ≠ .d32 v) ∨ offset % 4 ≠ 0) → s.agenda = .write (s.build.blockBase + offset) d :: rest →
      step s = .next { s with agenda := rest })

/-- R73, R270: the DMEM window, by the local address of the access's first byte; while `BUSY` = 1 every access to the window
faults, a misaligned or out-of-range one too (log 12). -/
def Obligations.WindowAccessesReadAndWriteDmem : Prop :=
  ∀ (s : State) (a : Nat) (rest : List Move), a < 2 ^ 24 →
    (∀ w, s.agenda = .read (s.build.blockBase + 0x10000 + a) w :: rest →
      step s = if s.busy = true then .fault .hostHazard else .next { s with
        agenda := rest
        busData := if a % w.bytes = 0 ∧ a + w.bytes ≤ s.build.dmemSize
          then BitVec.ofNat 32 (le (s.dmem.readBytes a w.bytes)) else 0 }) ∧
    (∀ d, s.agenda = .write (s.build.blockBase + 0x10000 + a) d :: rest →
      (s.busy = true → step s = .fault .hostHazard) ∧
      (s.busy = false → ∃ t, step s = .next t ∧ t = { s with agenda := rest, dmem := t.dmem } ∧
        (if a % d.toBytes.length = 0 ∧ a + d.toBytes.length ≤ s.build.dmemSize
          then (s.dmem.wf → t.dmem.readBytes a d.toBytes.length = d.toBytes) ∧
            ∀ x, x < a ∨ a + d.toBytes.length ≤ x → t.dmem.read x = s.dmem.read x
          else t.dmem = s.dmem)))

/-- R245: the level of `irq`, and its level after every reset. -/
def Obligations.IrqIsTheMaskedCompletion : Prop :=
  ∀ s : State, s.irq = (s.irqEn && (s.done || s.err)) ∧ s.softReset.irq = false ∧
    (∀ c, (s.powerOnReset c).irq = false) ∧ State.reset.irq = false

/-- R267, R268: a soft reset clears every element but DMEM, which changes only in the output regions of an aborted command
whose checks pass; `build`, `agenda`, `busData` and `freeCount` are the model's own fields (logs 1, 3, 5, 7). -/
def Obligations.SoftResetClearsAllButDmem : Prop :=
  ∀ (s : State) (v : Word) (rest : List Move), s.hostWrites 0x004 v rest → v.getLsbD 0 = true →
    ∃ t, step s = .next t ∧
      t = { busy := false, done := false, err := false, cmdLost := false, errCode := 0, irqEn := false, pendCmd := 0,
            pendArg := Vector.replicate 8 0, arg := Vector.replicate 8 0, result := 0,
            xs := XsUnit.cleared, poly := PolyUnit.cleared, dmem := t.dmem,
            build := s.build, agenda := rest, busData := s.busData, freeCount := t.freeCount } ∧
      (s.busy = false → t.dmem = s.dmem) ∧
      (∀ e, decode s.pendCmd = .error e → t.dmem = s.dmem) ∧
      (∀ i e, decode s.pendCmd = .ok i → commandError i s = some e → t.dmem = s.dmem) ∧
      (∀ i a, decode s.pendCmd = .ok i → Region.outside (writeRegions i s) a → t.dmem.read a = s.dmem.read a) ∧
      (s.dmem.wf → t.dmem.wf)

/-- R266: a power-on reset sets every element to its reset value and DMEM to any given contents; `build`, `agenda`, `busData`
and `freeCount` are the model's own fields (logs 1, 3, 5, 7). -/
def Obligations.PowerOnResetClearsAll : Prop :=
  ∀ (s : State) (contents : Memory) (rest : List Move), contents.wf → (∀ c ∈ contents, c.1 < s.build.dmemSize) →
    s.agenda = .powerOn contents :: rest →
    step s = .next
      { busy := false, done := false, err := false, cmdLost := false, errCode := 0, irqEn := false, pendCmd := 0,
        pendArg := Vector.replicate 8 0, arg := Vector.replicate 8 0, result := 0,
        xs := XsUnit.cleared, poly := PolyUnit.cleared, dmem := contents,
        build := s.build, agenda := rest, busData := s.busData, freeCount := s.freeCount }

/-- R262: what the host reads after either reset. -/
def Obligations.RegistersAfterReset : Prop :=
  ∀ (s t : State), (t = s.softReset ∨ ∃ c, t = s.powerOnReset c) →
    t.busy = false ∧ t.irqEn = false ∧ t.irq = false ∧ t.statusWord = 0 ∧ t.readRegister 0x000 = 0x58530100 ∧
    t.readRegister 0x044 = BitVec.ofNat 32 s.build.dmemSize

/-- R38: `RESULT` changes only at a `CT.MEMCMP` that completes without error, a `ZEROIZE` or a reset. -/
def Obligations.ResultChangesOnlyAtItsEvents : Prop :=
  ∀ s t : State, step s = .next t → t.result ≠ s.result →
    (s.busy = true ∧ (s.agenda = [] ∨ ∃ rest, s.agenda = .engine :: rest) ∧
      ((decode s.pendCmd = .ok .ctMemcmp ∧ commandError .ctMemcmp s = none ∧ (t.result = 0 ∨ t.result = 1)) ∨
       (decode s.pendCmd = .ok .zeroize ∧ t.result = 0))) ∨
    (t.result = 0 ∧ ∃ rest, (∃ v, s.hostWrites 0x004 v rest ∧ v.getLsbD 0 = true) ∨ (∃ c, s.agenda = .powerOn c :: rest))

/-- R250: `XS_NEXT` changes only when a stream command generates blocks, and only `XS.INIT`, `ZEROIZE` and a reset clear it. -/
def Obligations.StreamCounterChangesOnlyAtItsEvents : Prop :=
  ∀ s t : State, step s = .next t → t.xs.next ≠ s.xs.next →
    (s.busy = true ∧ (s.agenda = [] ∨ ∃ rest, s.agenda = .engine :: rest) ∧
      (((decode s.pendCmd = .ok .xsXor ∨ decode s.pendCmd = .ok .xsKeystream) ∧
          t.xs.next = s.xs.next + xsNeed s.xs (s.x 2)) ∨
       (t.xs.next = 0 ∧ ((∃ k n, decode s.pendCmd = .ok (.xsInit k n)) ∨ decode s.pendCmd = .ok .zeroize)))) ∨
    (t.xs.next = 0 ∧
      ∃ rest, (∃ v, s.hostWrites 0x004 v rest ∧ v.getLsbD 0 = true) ∨ (∃ c, s.agenda = .powerOn c :: rest))

/-! ## Invariant and hidden state -/

/-- R54: the invariant holds right after reset. -/
def Obligations.ResetMeetsTheInvariant : Prop := Inv State.reset

/-- R35, R46–R49, R71, R154, R178: every step of either agent keeps the invariant. -/
def Obligations.EveryStepKeepsTheInvariant : Prop :=
  ∀ s t : State, Inv s → step s = .next t → Inv t

/-- R51: no host move, whatever it is, shows anything of the hidden state: two states that differ only there answer alike and
still differ only there. -/
def Obligations.HostMovesShowNothingHidden : Prop :=
  ∀ (m : Move) (s t : State), m ≠ .engine → s.visible = t.visible →
    visibleOutcome (moveTurn m s) = visibleOutcome (moveTurn m t)

/-- R50, R51: no command but `XS.XOR`, `XS.KEYSTREAM` and `P.FINAL` lets the hidden state reach anything visible; those three let
it reach only the bytes of their output region. -/
def Obligations.CommandsShowOnlyTheirOutputs : Prop :=
  ∀ (i : Instr) (s t : State), s.visible = t.visible →
    (i ≠ .xsXor → i ≠ .xsKeystream → i ≠ .pFinal → visibleOutcome (exec i s) = visibleOutcome (exec i t)) ∧
    ∃ s' t', exec i s = .next s' ∧ exec i t = .next t' ∧
      { s'.visible with dmem := [] } = { t'.visible with dmem := [] } ∧
      ∀ a, Region.outside (writeRegions i s) a → s'.dmem.read a = t'.dmem.read a
end

