-- ==== Sys2Proof/Laws/Bytes.lean ====
section
/-! SUPPORT. Lengths of byte strings and of the transforms' outputs, and conversions that undo each other. -/

namespace Sys2Proof.Machine

@[simp] theorem length_leBytes (v n : Nat) : (leBytes v n).length = n := by
  induction n generalizing v with
  | zero => rfl
  | succ n ih => simp [leBytes, ih]

/-- R13: `le(le_bytes(v, n)) = v`. -/
theorem le_leBytes (n v : Nat) (h : v < 256 ^ n) : le (leBytes v n) = v := by
  induction n generalizing v with
  | zero => simp at h; simp [leBytes, le, h]
  | succ n ih =>
    have hd : v / 256 < 256 ^ n := by
      rw [Nat.div_lt_iff_lt_mul (by decide)]; rwa [Nat.pow_succ] at h
    simp only [leBytes, le, ih _ hd, BitVec.toNat_ofNat]
    omega

/-- A little-endian number is below 256 to its length. -/
theorem le_lt (s : List Byte) : le s < 256 ^ s.length := by
  induction s with
  | nil => simp [le]
  | cons b s ih =>
    have := b.isLt
    simp only [le, List.length_cons, Nat.pow_succ]
    omega

@[simp] theorem length_bytesOf (ws : List Word) : (bytesOf ws).length = 4 * ws.length := by
  induction ws with
  | nil => rfl
  | cons w ws ih =>
    have h : bytesOf (w :: ws) = leBytes w.toNat 4 ++ bytesOf ws := rfl
    rw [h, List.length_append, ih, length_leBytes, List.length_cons]; omega

/-- R13: the words of the bytes of words are the words. -/
@[simp] theorem words_bytesOf (ws : List Word) : words (bytesOf ws) = ws := by
  induction ws with
  | nil => rfl
  | cons w ws ih =>
    have h : words (bytesOf (w :: ws)) = BitVec.ofNat 32 (le (leBytes w.toNat 4)) :: words (bytesOf ws) := rfl
    rw [h, ih, le_leBytes 4 w.toNat w.isLt, BitVec.ofNat_toNat, BitVec.setWidth_eq]

@[simp] theorem Block.length_toWords (b : Block) : b.toWords.length = 16 := rfl

@[simp] theorem blockOfWords_toWords (b : Block) : blockOfWords b.toWords = b := rfl

@[simp] theorem length_coreHash (input : List Byte) : (coreHash input).length = 64 := by simp [coreHash]

@[simp] theorem length_coreStream (input : List Byte) : (coreStream input).length = 64 := by simp [coreStream]

@[simp] theorem length_salsa20Block (k n : List Byte) (c : Nat) : (salsa20Block k n c).length = 64 := by
  simp [salsa20Block]

@[simp] theorem length_hsalsa20Fn (k h : List Byte) : (hsalsa20Fn k h).length = 32 := by simp [hsalsa20Fn]

@[simp] theorem length_keystreamBlocks (k n : List Byte) (c m : Nat) : (keystreamBlocks k n c m).length = 64 * m := by
  induction m generalizing c with
  | zero => rfl
  | succ m ih => simp only [keystreamBlocks, List.length_append, length_salsa20Block, ih]; omega

@[simp] theorem length_xsKs (k n : List Byte) (len : Nat) : (xsKs k n len).length = len := by
  simp only [xsKs, List.length_take, length_keystreamBlocks, ceilDiv]; omega

@[simp] theorem length_xorBytes (s t : List Byte) : (xorBytes s t).length = min s.length t.length := by
  simp [xorBytes]

@[simp] theorem length_slice (s : List Byte) (a b : Nat) : (slice s a b).length = min (b - a) (s.length - a) := by
  simp [slice]

@[simp] theorem length_polyTag (acc s : Nat) : (polyTag acc s).length = 16 := by simp [polyTag]

@[simp] theorem length_poly1305Fn (k m : List Byte) : (poly1305Fn k m).length = 16 := by simp [poly1305Fn]

@[simp] theorem length_xsTake (len : Nat) (u : XsUnit) : (xsTake len u).1.length = len := by
  induction len generalizing u with
  | zero => rfl
  | succ n ih => simp [xsTake, ih]

@[simp] theorem length_freeBytes (k a n : Nat) : (freeBytes k a n).length = n := by
  induction n generalizing a with
  | zero => rfl
  | succ n ih => simp [freeBytes, ih]

/-- The fixed-length string of a list of that length is the list. -/
@[simp] theorem toList_bytesFrom (n : Nat) (l : List Byte) (h : l.length = n) : (bytesFrom n l).toList = l := by
  subst h; simp [bytesFrom, Vector.toList]

end Sys2Proof.Machine
end

