-- ==== Sys2Proof/Laws/Memory.lean ====
section
/-! SUPPORT. The laws of DMEM: read after write, frames, lengths, and the canonical form that every operation keeps. -/

namespace Sys2Proof.Machine

@[simp] theorem Memory.read_nil (a : Nat) : Memory.read [] a = Memory.unlisted := rfl

@[simp] theorem Memory.read_cell (k : Nat) (b : Byte) (m : Memory) (a : Nat) :
    Memory.read ((k, b) :: m) a = if k = a then b else Memory.read m a := rfl

/-- A byte below every listed address reads as an unlisted byte. -/
theorem Memory.read_of_lt (m : Memory) (a : Nat) (h : ∀ c ∈ m, a < c.1) : m.read a = Memory.unlisted := by
  induction m with
  | nil => rfl
  | cons c m ih =>
    obtain ⟨k, b⟩ := c
    have hk : a < k := h (k, b) (by simp)
    rw [Memory.read_cell, if_neg (by omega), ih fun c hc => h c (by simp [hc])]

/-- Reading past a cell put in front. -/
theorem Memory.read_cons (a : Nat) (v : Byte) (m : Memory) (h : ∀ c ∈ m, a < c.1) (x : Nat) :
    (Memory.cons a v m).read x = if a = x then v else m.read x := by
  unfold Memory.cons
  split
  · split
    · subst_vars; exact Memory.read_of_lt m _ h
    · rfl
  · rfl

/-- What a canonical tail knows of its head. -/
theorem Memory.wf_cell (k : Nat) (b : Byte) (m : Memory) :
    Memory.wf ((k, b) :: m) ↔ (∀ c ∈ m, k < c.1) ∧ b ≠ Memory.unlisted ∧ Memory.wf m := by
  simp only [Memory.wf, List.pairwise_cons, List.mem_cons, forall_eq_or_imp]
  tauto

/-- Read after write: the written byte reads as written, every other byte as before. -/
theorem Memory.read_write (m : Memory) (hm : m.wf) (a : Nat) (v : Byte) (x : Nat) :
    (m.write a v).read x = if a = x then v else m.read x := by
  induction m with
  | nil => exact Memory.read_cons a v [] (by simp) x
  | cons c m ih =>
    obtain ⟨k, b⟩ := c
    obtain ⟨hk, _, hm'⟩ := (Memory.wf_cell k b m).mp hm
    unfold Memory.write
    split
    · refine Memory.read_cons a v _ ?_ x
      simp only [List.mem_cons, forall_eq_or_imp]
      exact ⟨‹_›, fun c hc => Nat.lt_trans ‹_› (hk c hc)⟩
    · split
      · subst_vars
        rw [Memory.read_cons _ v m hk x, Memory.read_cell]
        split <;> rfl
      · rw [Memory.read_cell, Memory.read_cell, ih hm']
        split <;> split <;> first | rfl | omega

/-- A byte other than the written one reads as before, in any memory. -/
theorem Memory.read_write_ne (m : Memory) (a : Nat) (v : Byte) (x : Nat) (h : a ≠ x) :
    (m.write a v).read x = m.read x := by
  induction m with
  | nil => simp only [Memory.write, Memory.cons]; split <;> simp [h]
  | cons c m ih =>
    obtain ⟨k, b⟩ := c
    simp only [Memory.write, Memory.cons]
    split
    · split <;> simp [h]
    · split
      · subst_vars; split <;> simp [h]
      · simp [ih]

/-- The addresses listed after a write. -/
theorem Memory.mem_write (m : Memory) (a : Nat) (v : Byte) (c : Host.Cell) (hc : c ∈ m.write a v) :
    c = (a, v) ∨ c ∈ m := by
  induction m with
  | nil => simp only [Memory.write, Memory.cons] at hc; split at hc <;> simp_all
  | cons d m ih =>
    obtain ⟨k, b⟩ := d
    simp only [Memory.write, Memory.cons] at hc
    split at hc
    · split at hc
      · exact .inr hc
      · exact List.mem_cons.mp hc
    · split at hc
      · split at hc
        · exact .inr (List.mem_cons_of_mem _ hc)
        · exact (List.mem_cons.mp hc).imp_right (List.mem_cons_of_mem _)
      · rcases List.mem_cons.mp hc with h | h
        · simp [h]
        · rcases ih h with h | h <;> simp [h]

/-- Writing a byte keeps the canonical form. -/
theorem Memory.wf_write (m : Memory) (hm : m.wf) (a : Nat) (v : Byte) : (m.write a v).wf := by
  induction m with
  | nil =>
    simp only [Memory.write, Memory.cons]
    split
    · exact hm
    · exact (Memory.wf_cell a v []).mpr ⟨by simp, ‹_›, hm⟩
  | cons d m ih =>
    obtain ⟨k, b⟩ := d
    obtain ⟨hk, hb, hm'⟩ := (Memory.wf_cell k b m).mp hm
    simp only [Memory.write, Memory.cons]
    split
    · split
      · exact hm
      · refine (Memory.wf_cell _ _ _).mpr ⟨?_, ‹_›, hm⟩
        simp only [List.mem_cons, forall_eq_or_imp]
        exact ⟨‹_›, fun c hc => Nat.lt_trans ‹_› (hk c hc)⟩
    · split
      · subst_vars
        split
        · exact hm'
        · exact (Memory.wf_cell _ _ _).mpr ⟨hk, ‹_›, hm'⟩
      · refine (Memory.wf_cell _ _ _).mpr ⟨fun c hc => ?_, hb, ih hm'⟩
        rcases Memory.mem_write m a v c hc with h | h
        · subst h; show k < a; omega
        · exact hk c h

@[simp] theorem Memory.length_readBytes (m : Memory) (a n : Nat) : (m.readBytes a n).length = n := by
  induction n generalizing a with
  | zero => rfl
  | succ n ih => simp [Memory.readBytes, ih]

/-- The `i`-th byte of a string read. -/
theorem Memory.getElem_readBytes (m : Memory) (a n i : Nat) (h : i < (m.readBytes a n).length) :
    (m.readBytes a n)[i] = m.read (a + i) := by
  induction n generalizing a i with
  | zero => simp at h
  | succ n ih =>
    cases i with
    | zero => simp [Memory.readBytes]
    | succ i => simp only [Memory.readBytes, List.getElem_cons_succ, ih]; congr 1; omega

/-- Writing a string keeps the canonical form. -/
theorem Memory.wf_writeBytes (v : List Byte) (m : Memory) (hm : m.wf) (a : Nat) : (m.writeBytes a v).wf := by
  induction v generalizing m a with
  | nil => exact hm
  | cons b v ih => exact ih (m.write a b) (Memory.wf_write m hm a b) (a + 1)

/-- The addresses listed after a string is written. -/
theorem Memory.mem_writeBytes (v : List Byte) (m : Memory) (a : Nat) (c : Host.Cell) (hc : c ∈ m.writeBytes a v) :
    (a ≤ c.1 ∧ c.1 < a + v.length) ∨ c ∈ m := by
  induction v generalizing m a with
  | nil => exact .inr hc
  | cons b v ih =>
    rcases ih (m.write a b) (a + 1) hc with h | h
    · left; simp only [List.length_cons]; omega
    · rcases Memory.mem_write m a b c h with h | h
      · left; subst h; simp
      · exact .inr h

/-- A byte outside the written string reads as before, in any memory. -/
theorem Memory.read_writeBytes_outside (v : List Byte) (m : Memory) (a x : Nat) (h : x < a ∨ a + v.length ≤ x) :
    (m.writeBytes a v).read x = m.read x := by
  induction v generalizing m a with
  | nil => rfl
  | cons b v ih =>
    simp only [List.length_cons] at h
    rw [Memory.writeBytes, ih (m.write a b) (a + 1) (by omega), Memory.read_write_ne m a b x (by omega)]

/-- A byte of the written string reads as written. -/
theorem Memory.read_writeBytes (v : List Byte) (m : Memory) (hm : m.wf) (a i : Nat) (h : i < v.length) :
    (m.writeBytes a v).read (a + i) = v[i] := by
  induction v generalizing m a i with
  | nil => simp at h
  | cons b v ih =>
    rw [Memory.writeBytes]
    cases i with
    | zero => rw [Memory.read_writeBytes_outside v _ _ _ (by omega), Memory.read_write m hm]; simp
    | succ i =>
      have := ih (m.write a b) (Memory.wf_write m hm a b) (a + 1) i (by simpa using h)
      rw [show a + (i + 1) = a + 1 + i by omega, this, List.getElem_cons_succ]

/-- A string read where it was written is the string. -/
theorem Memory.readBytes_writeBytes (v : List Byte) (m : Memory) (hm : m.wf) (a n : Nat) (h : v.length = n) :
    (m.writeBytes a v).readBytes a n = v := by
  apply List.ext_getElem
  · simp [h]
  · intro i h1 h2
    rw [Memory.getElem_readBytes, Memory.read_writeBytes v m hm a i h2]

/-- Two memories that read alike over a region give the same string. -/
theorem Memory.readBytes_congr (m m' : Memory) (a n : Nat) (h : ∀ x, a ≤ x → x < a + n → m.read x = m'.read x) :
    m.readBytes a n = m'.readBytes a n := by
  apply List.ext_getElem
  · simp
  · intro i h1 h2
    rw [Memory.getElem_readBytes, Memory.getElem_readBytes]
    exact h _ (by omega) (by simp at h1; omega)

/-- A memory made from cells is canonical. -/
theorem Memory.wf_ofCells (size : Nat) (contents : List Host.Cell) : (Memory.ofCells size contents).wf := by
  have step : ∀ (cs : List Host.Cell) (m : Memory), m.wf →
      (cs.foldl (fun m c => if c.1 < size then m.write c.1 c.2 else m) m).wf := by
    intro cs
    induction cs with
    | nil => exact fun _ h => h
    | cons c cs ih =>
      intro m hm
      refine ih _ ?_
      dsimp only
      split
      · exact Memory.wf_write m hm c.1 c.2
      · exact hm
  exact step contents [] ⟨List.Pairwise.nil, by simp⟩

/-- A memory made from cells lists addresses of the memory only. -/
theorem Memory.ofCells_in_range (size : Nat) (contents : List Host.Cell) (c : Host.Cell)
    (hc : c ∈ Memory.ofCells size contents) : c.1 < size := by
  have step : ∀ (cs : List Host.Cell) (m : Memory), (∀ d ∈ m, d.1 < size) →
      ∀ d ∈ cs.foldl (fun m c => if c.1 < size then m.write c.1 c.2 else m) m, d.1 < size := by
    intro cs
    induction cs with
    | nil => exact fun _ h => h
    | cons e cs ih =>
      intro m hm
      refine ih _ ?_
      dsimp only
      split
      · intro d hd
        rcases Memory.mem_write m e.1 e.2 d hd with h | h
        · subst h; assumption
        · exact hm d h
      · exact hm
  exact step contents [] (fun _ h => absurd h List.not_mem_nil) c hc

end Sys2Proof.Machine
end

