-- ==== Sys2Proof/Laws/State.lean ====
section
/-! SUPPORT. One lemma per field and update of State, so that no later proof unfolds a record update. -/

namespace Sys2Proof.Machine

@[simp] theorem State.raise_busy (s : State) (e : ErrCode) : (s.raise e).busy = false := rfl
@[simp] theorem State.raise_done (s : State) (e : ErrCode) : (s.raise e).done = s.done := rfl
@[simp] theorem State.raise_err (s : State) (e : ErrCode) : (s.raise e).err = true := rfl
@[simp] theorem State.raise_cmdLost (s : State) (e : ErrCode) : (s.raise e).cmdLost = s.cmdLost := rfl
@[simp] theorem State.raise_errCode (s : State) (e : ErrCode) : (s.raise e).errCode = e.code := rfl
@[simp] theorem State.raise_irqEn (s : State) (e : ErrCode) : (s.raise e).irqEn = s.irqEn := rfl
@[simp] theorem State.raise_pendCmd (s : State) (e : ErrCode) : (s.raise e).pendCmd = s.pendCmd := rfl
@[simp] theorem State.raise_pendArg (s : State) (e : ErrCode) : (s.raise e).pendArg = s.pendArg := rfl
@[simp] theorem State.raise_arg (s : State) (e : ErrCode) : (s.raise e).arg = s.arg := rfl
@[simp] theorem State.raise_result (s : State) (e : ErrCode) : (s.raise e).result = s.result := rfl
@[simp] theorem State.raise_xs (s : State) (e : ErrCode) : (s.raise e).xs = s.xs := rfl
@[simp] theorem State.raise_poly (s : State) (e : ErrCode) : (s.raise e).poly = s.poly := rfl
@[simp] theorem State.raise_dmem (s : State) (e : ErrCode) : (s.raise e).dmem = s.dmem := rfl
@[simp] theorem State.raise_build (s : State) (e : ErrCode) : (s.raise e).build = s.build := rfl
@[simp] theorem State.raise_agenda (s : State) (e : ErrCode) : (s.raise e).agenda = s.agenda := rfl
@[simp] theorem State.raise_busData (s : State) (e : ErrCode) : (s.raise e).busData = s.busData := rfl
@[simp] theorem State.raise_freeCount (s : State) (e : ErrCode) : (s.raise e).freeCount = s.freeCount := rfl

@[simp] theorem State.finish_busy (s : State) : (s.finish).busy = false := rfl
@[simp] theorem State.finish_done (s : State) : (s.finish).done = true := rfl
@[simp] theorem State.finish_err (s : State) : (s.finish).err = s.err := rfl
@[simp] theorem State.finish_cmdLost (s : State) : (s.finish).cmdLost = s.cmdLost := rfl
@[simp] theorem State.finish_errCode (s : State) : (s.finish).errCode = s.errCode := rfl
@[simp] theorem State.finish_irqEn (s : State) : (s.finish).irqEn = s.irqEn := rfl
@[simp] theorem State.finish_pendCmd (s : State) : (s.finish).pendCmd = s.pendCmd := rfl
@[simp] theorem State.finish_pendArg (s : State) : (s.finish).pendArg = s.pendArg := rfl
@[simp] theorem State.finish_arg (s : State) : (s.finish).arg = s.arg := rfl
@[simp] theorem State.finish_result (s : State) : (s.finish).result = s.result := rfl
@[simp] theorem State.finish_xs (s : State) : (s.finish).xs = s.xs := rfl
@[simp] theorem State.finish_poly (s : State) : (s.finish).poly = s.poly := rfl
@[simp] theorem State.finish_dmem (s : State) : (s.finish).dmem = s.dmem := rfl
@[simp] theorem State.finish_build (s : State) : (s.finish).build = s.build := rfl
@[simp] theorem State.finish_agenda (s : State) : (s.finish).agenda = s.agenda := rfl
@[simp] theorem State.finish_busData (s : State) : (s.finish).busData = s.busData := rfl
@[simp] theorem State.finish_freeCount (s : State) : (s.finish).freeCount = s.freeCount := rfl

@[simp] theorem State.memWrite_busy (s : State) (r : Region) (v : List Byte) : (s.memWrite r v).busy = s.busy := rfl
@[simp] theorem State.memWrite_done (s : State) (r : Region) (v : List Byte) : (s.memWrite r v).done = s.done := rfl
@[simp] theorem State.memWrite_err (s : State) (r : Region) (v : List Byte) : (s.memWrite r v).err = s.err := rfl
@[simp] theorem State.memWrite_cmdLost (s : State) (r : Region) (v : List Byte) : (s.memWrite r v).cmdLost = s.cmdLost := rfl
@[simp] theorem State.memWrite_errCode (s : State) (r : Region) (v : List Byte) : (s.memWrite r v).errCode = s.errCode := rfl
@[simp] theorem State.memWrite_irqEn (s : State) (r : Region) (v : List Byte) : (s.memWrite r v).irqEn = s.irqEn := rfl
@[simp] theorem State.memWrite_pendCmd (s : State) (r : Region) (v : List Byte) : (s.memWrite r v).pendCmd = s.pendCmd := rfl
@[simp] theorem State.memWrite_pendArg (s : State) (r : Region) (v : List Byte) : (s.memWrite r v).pendArg = s.pendArg := rfl
@[simp] theorem State.memWrite_arg (s : State) (r : Region) (v : List Byte) : (s.memWrite r v).arg = s.arg := rfl
@[simp] theorem State.memWrite_result (s : State) (r : Region) (v : List Byte) : (s.memWrite r v).result = s.result := rfl
@[simp] theorem State.memWrite_xs (s : State) (r : Region) (v : List Byte) : (s.memWrite r v).xs = s.xs := rfl
@[simp] theorem State.memWrite_poly (s : State) (r : Region) (v : List Byte) : (s.memWrite r v).poly = s.poly := rfl
@[simp] theorem State.memWrite_dmem (s : State) (r : Region) (v : List Byte) : (s.memWrite r v).dmem = s.dmem.writeBytes r.addr v := rfl
@[simp] theorem State.memWrite_build (s : State) (r : Region) (v : List Byte) : (s.memWrite r v).build = s.build := rfl
@[simp] theorem State.memWrite_agenda (s : State) (r : Region) (v : List Byte) : (s.memWrite r v).agenda = s.agenda := rfl
@[simp] theorem State.memWrite_busData (s : State) (r : Region) (v : List Byte) : (s.memWrite r v).busData = s.busData := rfl
@[simp] theorem State.memWrite_freeCount (s : State) (r : Region) (v : List Byte) : (s.memWrite r v).freeCount = s.freeCount := rfl

@[simp] theorem State.issue_busy (s : State) (w : Word) : (s.issue w).busy = true := rfl
@[simp] theorem State.issue_done (s : State) (w : Word) : (s.issue w).done = false := rfl
@[simp] theorem State.issue_err (s : State) (w : Word) : (s.issue w).err = false := rfl
@[simp] theorem State.issue_cmdLost (s : State) (w : Word) : (s.issue w).cmdLost = s.cmdLost := rfl
@[simp] theorem State.issue_errCode (s : State) (w : Word) : (s.issue w).errCode = 0 := rfl
@[simp] theorem State.issue_irqEn (s : State) (w : Word) : (s.issue w).irqEn = s.irqEn := rfl
@[simp] theorem State.issue_pendCmd (s : State) (w : Word) : (s.issue w).pendCmd = w := rfl
@[simp] theorem State.issue_pendArg (s : State) (w : Word) : (s.issue w).pendArg = s.arg := rfl
@[simp] theorem State.issue_arg (s : State) (w : Word) : (s.issue w).arg = s.arg := rfl
@[simp] theorem State.issue_result (s : State) (w : Word) : (s.issue w).result = s.result := rfl
@[simp] theorem State.issue_xs (s : State) (w : Word) : (s.issue w).xs = s.xs := rfl
@[simp] theorem State.issue_poly (s : State) (w : Word) : (s.issue w).poly = s.poly := rfl
@[simp] theorem State.issue_dmem (s : State) (w : Word) : (s.issue w).dmem = s.dmem := rfl
@[simp] theorem State.issue_build (s : State) (w : Word) : (s.issue w).build = s.build := rfl
@[simp] theorem State.issue_agenda (s : State) (w : Word) : (s.issue w).agenda = s.agenda := rfl
@[simp] theorem State.issue_busData (s : State) (w : Word) : (s.issue w).busData = s.busData := rfl
@[simp] theorem State.issue_freeCount (s : State) (w : Word) : (s.issue w).freeCount = s.freeCount := rfl

@[simp] theorem State.clearAll_busy (s : State) : (s.clearAll).busy = false := rfl
@[simp] theorem State.clearAll_done (s : State) : (s.clearAll).done = false := rfl
@[simp] theorem State.clearAll_err (s : State) : (s.clearAll).err = false := rfl
@[simp] theorem State.clearAll_cmdLost (s : State) : (s.clearAll).cmdLost = false := rfl
@[simp] theorem State.clearAll_errCode (s : State) : (s.clearAll).errCode = 0 := rfl
@[simp] theorem State.clearAll_irqEn (s : State) : (s.clearAll).irqEn = false := rfl
@[simp] theorem State.clearAll_pendCmd (s : State) : (s.clearAll).pendCmd = 0 := rfl
@[simp] theorem State.clearAll_pendArg (s : State) : (s.clearAll).pendArg = Vector.replicate 8 0 := rfl
@[simp] theorem State.clearAll_arg (s : State) : (s.clearAll).arg = Vector.replicate 8 0 := rfl
@[simp] theorem State.clearAll_result (s : State) : (s.clearAll).result = 0 := rfl
@[simp] theorem State.clearAll_xs (s : State) : (s.clearAll).xs = XsUnit.cleared := rfl
@[simp] theorem State.clearAll_poly (s : State) : (s.clearAll).poly = PolyUnit.cleared := rfl
@[simp] theorem State.clearAll_dmem (s : State) : (s.clearAll).dmem = s.dmem := rfl
@[simp] theorem State.clearAll_build (s : State) : (s.clearAll).build = s.build := rfl
@[simp] theorem State.clearAll_agenda (s : State) : (s.clearAll).agenda = s.agenda := rfl
@[simp] theorem State.clearAll_busData (s : State) : (s.clearAll).busData = s.busData := rfl
@[simp] theorem State.clearAll_freeCount (s : State) : (s.clearAll).freeCount = s.freeCount := rfl

@[simp] theorem State.scramble_busy (s : State) (rs : List Region) : (s.scramble rs).busy = s.busy := rfl
@[simp] theorem State.scramble_done (s : State) (rs : List Region) : (s.scramble rs).done = s.done := rfl
@[simp] theorem State.scramble_err (s : State) (rs : List Region) : (s.scramble rs).err = s.err := rfl
@[simp] theorem State.scramble_cmdLost (s : State) (rs : List Region) : (s.scramble rs).cmdLost = s.cmdLost := rfl
@[simp] theorem State.scramble_errCode (s : State) (rs : List Region) : (s.scramble rs).errCode = s.errCode := rfl
@[simp] theorem State.scramble_irqEn (s : State) (rs : List Region) : (s.scramble rs).irqEn = s.irqEn := rfl
@[simp] theorem State.scramble_pendCmd (s : State) (rs : List Region) : (s.scramble rs).pendCmd = s.pendCmd := rfl
@[simp] theorem State.scramble_pendArg (s : State) (rs : List Region) : (s.scramble rs).pendArg = s.pendArg := rfl
@[simp] theorem State.scramble_arg (s : State) (rs : List Region) : (s.scramble rs).arg = s.arg := rfl
@[simp] theorem State.scramble_result (s : State) (rs : List Region) : (s.scramble rs).result = s.result := rfl
@[simp] theorem State.scramble_xs (s : State) (rs : List Region) : (s.scramble rs).xs = s.xs := rfl
@[simp] theorem State.scramble_poly (s : State) (rs : List Region) : (s.scramble rs).poly = s.poly := rfl
@[simp] theorem State.scramble_dmem (s : State) (rs : List Region) : (s.scramble rs).dmem = rs.foldl (fun m r => m.writeBytes r.addr (freeBytes s.freeCount r.addr r.len)) s.dmem := rfl
@[simp] theorem State.scramble_build (s : State) (rs : List Region) : (s.scramble rs).build = s.build := rfl
@[simp] theorem State.scramble_agenda (s : State) (rs : List Region) : (s.scramble rs).agenda = s.agenda := rfl
@[simp] theorem State.scramble_busData (s : State) (rs : List Region) : (s.scramble rs).busData = s.busData := rfl
@[simp] theorem State.scramble_freeCount (s : State) (rs : List Region) : (s.scramble rs).freeCount = s.freeCount + 1 := rfl

@[simp] theorem State.powerOnReset_busy (s : State) (c : List Host.Cell) : (s.powerOnReset c).busy = false := rfl
@[simp] theorem State.powerOnReset_done (s : State) (c : List Host.Cell) : (s.powerOnReset c).done = false := rfl
@[simp] theorem State.powerOnReset_err (s : State) (c : List Host.Cell) : (s.powerOnReset c).err = false := rfl
@[simp] theorem State.powerOnReset_cmdLost (s : State) (c : List Host.Cell) : (s.powerOnReset c).cmdLost = false := rfl
@[simp] theorem State.powerOnReset_errCode (s : State) (c : List Host.Cell) : (s.powerOnReset c).errCode = 0 := rfl
@[simp] theorem State.powerOnReset_irqEn (s : State) (c : List Host.Cell) : (s.powerOnReset c).irqEn = false := rfl
@[simp] theorem State.powerOnReset_pendCmd (s : State) (c : List Host.Cell) : (s.powerOnReset c).pendCmd = 0 := rfl
@[simp] theorem State.powerOnReset_pendArg (s : State) (c : List Host.Cell) : (s.powerOnReset c).pendArg = Vector.replicate 8 0 := rfl
@[simp] theorem State.powerOnReset_arg (s : State) (c : List Host.Cell) : (s.powerOnReset c).arg = Vector.replicate 8 0 := rfl
@[simp] theorem State.powerOnReset_result (s : State) (c : List Host.Cell) : (s.powerOnReset c).result = 0 := rfl
@[simp] theorem State.powerOnReset_xs (s : State) (c : List Host.Cell) : (s.powerOnReset c).xs = XsUnit.cleared := rfl
@[simp] theorem State.powerOnReset_poly (s : State) (c : List Host.Cell) : (s.powerOnReset c).poly = PolyUnit.cleared := rfl
@[simp] theorem State.powerOnReset_dmem (s : State) (c : List Host.Cell) : (s.powerOnReset c).dmem = Memory.ofCells s.build.dmemSize c := rfl
@[simp] theorem State.powerOnReset_build (s : State) (c : List Host.Cell) : (s.powerOnReset c).build = s.build := rfl
@[simp] theorem State.powerOnReset_agenda (s : State) (c : List Host.Cell) : (s.powerOnReset c).agenda = s.agenda := rfl
@[simp] theorem State.powerOnReset_busData (s : State) (c : List Host.Cell) : (s.powerOnReset c).busData = s.busData := rfl
@[simp] theorem State.powerOnReset_freeCount (s : State) (c : List Host.Cell) : (s.powerOnReset c).freeCount = s.freeCount := rfl

@[simp] theorem State.clearStatus_busy (s : State) (v : Word) : (s.clearStatus v).busy = s.busy := rfl
@[simp] theorem State.clearStatus_done (s : State) (v : Word) : (s.clearStatus v).done = (s.done && !v.getLsbD 1) := rfl
@[simp] theorem State.clearStatus_err (s : State) (v : Word) : (s.clearStatus v).err = (s.err && !v.getLsbD 2) := rfl
@[simp] theorem State.clearStatus_cmdLost (s : State) (v : Word) : (s.clearStatus v).cmdLost = (s.cmdLost && !v.getLsbD 3) := rfl
@[simp] theorem State.clearStatus_errCode (s : State) (v : Word) : (s.clearStatus v).errCode = (if v.getLsbD 2 then 0 else s.errCode) := rfl
@[simp] theorem State.clearStatus_irqEn (s : State) (v : Word) : (s.clearStatus v).irqEn = s.irqEn := rfl
@[simp] theorem State.clearStatus_pendCmd (s : State) (v : Word) : (s.clearStatus v).pendCmd = s.pendCmd := rfl
@[simp] theorem State.clearStatus_pendArg (s : State) (v : Word) : (s.clearStatus v).pendArg = s.pendArg := rfl
@[simp] theorem State.clearStatus_arg (s : State) (v : Word) : (s.clearStatus v).arg = s.arg := rfl
@[simp] theorem State.clearStatus_result (s : State) (v : Word) : (s.clearStatus v).result = s.result := rfl
@[simp] theorem State.clearStatus_xs (s : State) (v : Word) : (s.clearStatus v).xs = s.xs := rfl
@[simp] theorem State.clearStatus_poly (s : State) (v : Word) : (s.clearStatus v).poly = s.poly := rfl
@[simp] theorem State.clearStatus_dmem (s : State) (v : Word) : (s.clearStatus v).dmem = s.dmem := rfl
@[simp] theorem State.clearStatus_build (s : State) (v : Word) : (s.clearStatus v).build = s.build := rfl
@[simp] theorem State.clearStatus_agenda (s : State) (v : Word) : (s.clearStatus v).agenda = s.agenda := rfl
@[simp] theorem State.clearStatus_busData (s : State) (v : Word) : (s.clearStatus v).busData = s.busData := rfl
@[simp] theorem State.clearStatus_freeCount (s : State) (v : Word) : (s.clearStatus v).freeCount = s.freeCount := rfl

/-- The latched arguments are read the same after any update that keeps them. -/
@[simp] theorem State.raise_x (s : State) (e : ErrCode) (i : Fin 8) : (s.raise e).x i = s.x i := rfl
@[simp] theorem State.finish_x (s : State) (i : Fin 8) : (s.finish).x i = s.x i := rfl
@[simp] theorem State.memWrite_x (s : State) (r : Region) (v : List Byte) (i : Fin 8) : (s.memWrite r v).x i = s.x i := rfl
@[simp] theorem State.scramble_x (s : State) (rs : List Region) (i : Fin 8) : (s.scramble rs).x i = s.x i := rfl
@[simp] theorem State.clearStatus_x (s : State) (v : Word) (i : Fin 8) : (s.clearStatus v).x i = s.x i := rfl

end Sys2Proof.Machine
end

