-- ==== Sys2Proof/Laws/Ops.lean ====
section
/-! SUPPORT. What each shared operation can do, said once. -/

namespace Sys2Proof.Machine

/-- `MemRead` gives as many bytes as its region has. -/
@[simp] theorem State.length_memRead (s : State) (r : Region) : (s.memRead r).length = r.len := by
  simp [State.memRead]

/-- `MemWrite` then `MemRead` of the same region (R78). -/
theorem State.memRead_memWrite (s : State) (hs : s.dmem.wf) (r : Region) (v : List Byte) (h : v.length = r.len) :
    (s.memWrite r v).memRead r = v :=
  Memory.readBytes_writeBytes v s.dmem hs r.addr r.len h

/-- `MemWrite` leaves every byte outside its region (R78). -/
theorem State.read_memWrite_outside (s : State) (r : Region) (v : List Byte) (h : v.length = r.len) (a : Nat)
    (ha : r.covers a = false) : (s.memWrite r v).dmem.read a = s.dmem.read a := by
  apply Memory.read_writeBytes_outside
  simp [Region.covers] at ha
  omega

/-- `MemWrite` of a region disjoint from another leaves what `MemRead` gives there. -/
theorem State.memRead_memWrite_disjoint (s : State) (r q : Region) (v : List Byte) (h : v.length = r.len)
    (hd : Region.disjoint r q = true) : (s.memWrite r v).memRead q = s.memRead q := by
  apply Memory.readBytes_congr
  intro x h1 h2
  apply Memory.read_writeBytes_outside
  simp [Region.disjoint] at hd
  omega

/-- `MemWrite` keeps the canonical form. -/
theorem State.wf_memWrite (s : State) (hs : s.dmem.wf) (r : Region) (v : List Byte) : (s.memWrite r v).dmem.wf :=
  Memory.wf_writeBytes v s.dmem hs r.addr

/-- The free bytes of an abort keep the canonical form. -/
theorem State.wf_scramble (s : State) (hs : s.dmem.wf) (rs : List Region) : (s.scramble rs).dmem.wf := by
  rw [State.scramble_dmem]
  induction rs generalizing s with
  | nil => exact hs
  | cons r rs ih =>
    have h := Memory.wf_writeBytes (freeBytes s.freeCount r.addr r.len) s.dmem hs r.addr
    exact ih { s with dmem := s.dmem.writeBytes r.addr (freeBytes s.freeCount r.addr r.len) } h

/-- A completion always answers a next state: the error's, or the effect's (R230, R240). -/
theorem conclude_next (s : State) (error : Option ErrCode) (effect : Unit → State) (t : State)
    (h : conclude s error effect = .next t) :
    (∃ e, error = some e ∧ t = s.raise e) ∨ (error = none ∧ t = (effect ()).finish) := by
  cases error with
  | none => exact .inr ⟨rfl, by injection h with h; exact h.symm⟩
  | some e => exact .inl ⟨e, rfl, by injection h with h; exact h.symm⟩

@[simp] theorem conclude_none (s : State) (effect : Unit → State) :
    conclude s none effect = .next (effect ()).finish := rfl

@[simp] theorem conclude_some (s : State) (effect : Unit → State) (e : ErrCode) :
    conclude s (some e) effect = .next (s.raise e) := rfl

@[simp] theorem firstError_nil : firstError [] = none := rfl

@[simp] theorem firstError_cons (ok : Bool) (e : ErrCode) (rest : List (Bool × ErrCode)) :
    firstError ((ok, e) :: rest) = if ok then firstError rest else some e := rfl

/-- Checks that all pass give no error, and only they do. -/
theorem firstError_eq_none (checks : List (Bool × ErrCode)) :
    firstError checks = none ↔ ∀ c ∈ checks, c.1 = true := by
  induction checks with
  | nil => simp
  | cons c rest ih =>
    obtain ⟨ok, e⟩ := c
    cases ok <;> simp [ih]

/-- `AEAD.DEC` reports no error exactly when its operands pass and the tag verifies (R193). -/
theorem aeadDecError_eq_none (klen nlen : Nat) (s : State) :
    aeadDecError klen nlen s = none ↔ aeadDecOperandError klen nlen s = none ∧ (aeadDecOpened s).isSome = true := by
  unfold aeadDecError
  cases aeadDecOperandError klen nlen s <;> cases aeadDecOpened s <;> simp

/-- Whether a region is valid (R75). -/
@[simp] theorem Region.valid_iff (size : Nat) (r : Region) :
    Region.valid size r = true ↔ r.len = 0 ∨ r.addr + r.len ≤ size := by
  simp [Region.valid]

/-- Whether regions are disjoint (R77). -/
@[simp] theorem Region.disjoint_iff (a b : Region) :
    Region.disjoint a b = true ↔ a.len = 0 ∨ b.len = 0 ∨ a.addr + a.len ≤ b.addr ∨ b.addr + b.len ≤ a.addr := by
  simp [Region.disjoint]

/-- Whether all regions are valid (R239 item 5). -/
@[simp] theorem State.regionsValid_iff (s : State) (rs : List Region) :
    s.regionsValid rs = true ↔ ∀ r ∈ rs, r.len = 0 ∨ r.addr + r.len ≤ s.build.dmemSize := by
  simp [State.regionsValid]

/-- Only a lost write leaves the engine as it was; every other `CMD` write issues (R236, R237). -/
theorem State.writeCmd_cases (s : State) (w : Word) :
    (s.busy = true ∧ s.writeCmd w = { s with cmdLost := true }) ∨ (s.busy = false ∧ s.writeCmd w = s.issue w) := by
  unfold State.writeCmd
  cases h : s.busy <;> simp

/-- A soft reset clears everything but DMEM, after the free bytes of an abort (R267, R268). -/
theorem State.softReset_cases (s : State) :
    (s.busy = true ∧ s.softReset = (s.scramble (pendingWrites s)).clearAll) ∨
    (s.busy = false ∧ s.softReset = s.clearAll) := by
  unfold State.softReset
  cases h : s.busy <;> simp

/-- What the engine's turn can do (R240, R253). -/
theorem engineTurn_cases (s : State) :
    (s.busy = false ∧ engineTurn s = .next s) ∨
    (s.busy = true ∧ ∃ e, decode s.pendCmd = .error e ∧ engineTurn s = .next (s.raise .illegalCmd)) ∨
    (s.busy = true ∧ ∃ i, decode s.pendCmd = .ok i ∧ engineTurn s = exec i s) := by
  unfold engineTurn
  cases hb : s.busy with
  | false => simp
  | true => cases hd : decode s.pendCmd <;> simp

end Sys2Proof.Machine
end

