-- ==== Sys2Proof/Laws/PerInstr.lean ====
section
/-! SUPPORT. Per command: the word its encoder writes lies in its row of 30_encoding.md R101, whatever its length fields. -/

namespace Sys2Proof.Laws.EncodesRow

/-- The encoded word matches the command's own row: `(w & mask) = match` (R101). -/
def Statement (i : Instr) : Prop := encode i &&& (rowMatchMask i).2 = (rowMatchMask i).1

/-- A packed word under a mask that leaves both length fields open keeps its low half. -/
theorem packFields_low_half (nlen klen : Nat) (m : BitVec 1) (opc : BitVec 8) :
    packFields nlen klen m opc &&& 0x0000FFFF#32 = packFields 0 0 m opc := by
  apply BitVec.eq_of_getLsbD_eq
  intro i hi
  simp only [packFields, BitVec.getLsbD_and, BitVec.getLsbD_append]
  interval_cases i <;> simp

/-- A packed word under the mask of `P.INIT` keeps everything but `KLEN`. -/
theorem packFields_but_klen (klen : Nat) (m : BitVec 1) (opc : BitVec 8) :
    packFields 0 klen m opc &&& 0xFF00FFFF#32 = packFields 0 0 m opc := by
  apply BitVec.eq_of_getLsbD_eq
  intro i hi
  simp only [packFields, BitVec.getLsbD_and, BitVec.getLsbD_append]
  interval_cases i <;> simp

theorem salsa20CoreStream : Statement .salsa20CoreStream := rfl
theorem salsa20CoreHash : Statement .salsa20CoreHash := rfl
theorem hsalsa20 (klen nlen : Nat) : Statement (.hsalsa20 klen nlen) := (packFields_low_half nlen klen 0 0x02).trans rfl
theorem xsInit (klen nlen : Nat) : Statement (.xsInit klen nlen) := (packFields_low_half nlen klen 0 0x10).trans rfl
theorem xsXor : Statement .xsXor := rfl
theorem xsKeystream : Statement .xsKeystream := rfl
theorem pInit (klen : Nat) : Statement (.pInit klen) := (packFields_but_klen klen 0 0x20).trans rfl
theorem pUpdate : Statement .pUpdate := rfl
theorem pFinal : Statement .pFinal := rfl
theorem aeadEnc (klen nlen : Nat) : Statement (.aeadEnc klen nlen) := (packFields_low_half nlen klen 0 0x30).trans rfl
theorem aeadDec (klen nlen : Nat) : Statement (.aeadDec klen nlen) := (packFields_low_half nlen klen 0 0x31).trans rfl
theorem ctMemcmp : Statement .ctMemcmp := rfl
theorem zeroize : Statement .zeroize := rfl

end Sys2Proof.Laws.EncodesRow
end

