-- ==== Sys2Proof/Tests/Slice0.lean ====
section
/-! SUPPORT. Tests on values taken from spec/95_test_vectors.md, the ill-formed terms WellFormed refuses, and for each statement with hypotheses a state that meets them. -/

set_option Elab.async false

namespace Sys2Proof.Tests

open Sys2Proof Sys2Proof.Machine

/-- The bytes of a hex string as the vectors write them: the first pair of digits is the byte at the lowest address. -/
def hex (n v : Nat) : List Byte := (leBytes v n).reverse

/-- The state a step answers, or the state before it. -/
def after (o : Host.Outcome State Fault Refusal) (s : State) : State :=
  match o with
  | .next t => t
  | _ => s

/-- The key `00 01 … 1f` of the vectors. -/
def key32 : List Byte := hex 32 0x000102030405060708090a0b0c0d0e0f101112131415161718191a1b1c1d1e1f
/-- The nonce `00 01 … 17` of the vectors. -/
def nonce24 : List Byte := hex 24 0x000102030405060708090a0b0c0d0e0f1011121314151617
/-- The plaintext "hello world" of the vectors. -/
def helloWorld : List Byte := hex 11 0x68656c6c6f20776f726c64

/-- A busy state with latched arguments and DMEM contents. -/
def busyWith (args : Vector Word 8) (mem : List (Nat × List Byte)) : State :=
  { State.reset with busy := true, pendArg := args, dmem := mem.foldl (fun m r => m.writeBytes r.1 r.2) [] }

/-! WellFormed refuses each ill-formed term. -/

theorem test_wellFormed_refuses_hsalsa20_klen : (Instr.hsalsa20 256 16).wellFormed = false := by decide
theorem test_wellFormed_refuses_hsalsa20_nlen : (Instr.hsalsa20 32 256).wellFormed = false := by decide
theorem test_wellFormed_refuses_xsInit_klen : (Instr.xsInit 256 24).wellFormed = false := by decide
theorem test_wellFormed_refuses_xsInit_nlen : (Instr.xsInit 32 256).wellFormed = false := by decide
theorem test_wellFormed_refuses_pInit_klen : (Instr.pInit 256).wellFormed = false := by decide
theorem test_wellFormed_refuses_aeadEnc_klen : (Instr.aeadEnc 256 24).wellFormed = false := by decide
theorem test_wellFormed_refuses_aeadEnc_nlen : (Instr.aeadEnc 32 256).wellFormed = false := by decide
theorem test_wellFormed_refuses_aeadDec_klen : (Instr.aeadDec 256 24).wellFormed = false := by decide
theorem test_wellFormed_refuses_aeadDec_nlen : (Instr.aeadDec 32 256).wellFormed = false := by decide

/-! Decoding: the canonical words of 30_encoding.md R107, and one word with a wrong length. -/

theorem test_decode_salsa20CoreStream : decodeTableWord 32 0x00000001 = some .salsa20CoreStream := by decide
theorem test_decode_salsa20CoreHash : decodeTableWord 32 0x00000101 = some .salsa20CoreHash := by decide
theorem test_decode_hsalsa20 : decodeTableWord 32 0x10200002 = some (.hsalsa20 32 16) := by decide
theorem test_decode_xsInit : decodeTableWord 32 0x18200010 = some (.xsInit 32 24) := by decide
theorem test_decode_xsXor : decodeTableWord 32 0x00000011 = some .xsXor := by decide
theorem test_decode_xsKeystream : decodeTableWord 32 0x00000111 = some .xsKeystream := by decide
theorem test_decode_pInit : decodeTableWord 32 0x00200020 = some (.pInit 32) := by decide
theorem test_decode_pUpdate : decodeTableWord 32 0x00000021 = some .pUpdate := by decide
theorem test_decode_pFinal : decodeTableWord 32 0x00000022 = some .pFinal := by decide
theorem test_decode_aeadEnc : decodeTableWord 32 0x18200030 = some (.aeadEnc 32 24) := by decide
theorem test_decode_aeadEnc_short_key : decodeTableWord 32 0x18100030 = some (.aeadEnc 16 24) := by decide
theorem test_decode_aeadDec : decodeTableWord 32 0x18200031 = some (.aeadDec 32 24) := by decide
theorem test_decode_ctMemcmp : decodeTableWord 32 0x00000040 = some .ctMemcmp := by decide
theorem test_decode_zeroize : decodeTableWord 32 0x000000F0 = some .zeroize := by decide

/-- The illegal words of 95_test_vectors.md section 3.9, V-CORE-10, V-AE-9 and V-CTL-3, each with its case of R105. -/
theorem test_decode_illegal :
    [0x00000000, 0x00000080, 0x00000023, 0x00000201, 0x00000121, 0x00010011, 0x01000022, 0x18200020, 0x18200130,
      0x000100F0].map decode
    = [.error .zeroOpcode, .error .reservedOpcode, .error .unassignedOpcode, .error .reservedBits, .error .modeBit,
      .error .keyLengthField, .error .nonceLengthField, .error .nonceLengthField, .error .modeBit,
      .error .keyLengthField] := by decide

theorem test_encode_aeadEnc : encode (.aeadEnc 32 24) = 0x18200030 := by decide

/-! The transforms: V-QR-5, V-QR-7, V-QR-8, V-QR-9. -/

theorem test_quarterround :
    quarterround 0xe7e8c006 0xc4f9417d 0x6479b4b2 0x68c67137 = (0xe876d72b, 0x9361dfd5, 0xf1460244, 0x948541a3) := by
  decide +kernel
theorem test_rowround :
    rowround ⟨1, 0, 0, 0, 1, 0, 0, 0, 1, 0, 0, 0, 1, 0, 0, 0⟩
    = ⟨0x08008145, 0x00000080, 0x00010200, 0x20500000, 0x20100001, 0x00048044, 0x00000080, 0x00010000,
       0x00000001, 0x00002000, 0x80040000, 0x00000000, 0x00000001, 0x00000200, 0x00402000, 0x88000100⟩ := by
  decide +kernel
theorem test_columnround :
    columnround ⟨1, 0, 0, 0, 1, 0, 0, 0, 1, 0, 0, 0, 1, 0, 0, 0⟩
    = ⟨0x10090288, 0, 0, 0, 0x00000101, 0, 0, 0, 0x00020401, 0, 0, 0, 0x40a04001, 0, 0, 0⟩ := by
  decide +kernel
/-- V-CORE-7: the counter carries into word 9. -/
theorem test_salsa20Block_high_counter :
    (salsa20Block (hex 32 0) (hex 8 0) (2 ^ 32)).take 8 = hex 8 0xb65fc777c4f950ec := by decide +kernel
/-- V-P-10: `r` = `CLAMP`, two full chunks. -/
theorem test_poly1305_clamp :
    poly1305Fn (hex 16 0xffffff0ffcffff0ffcffff0ffcffff0f ++ hex 16 0) (hex 32 (2 ^ 256 - 1))
    = hex 16 0x5500801f3f00204f3900c07e330060ae := by decide +kernel

/-! One step of each command. -/

/-- V-CORE-8: in place. -/
theorem test_salsa20CoreStream_in_place :
    let s := busyWith (Vector.replicate 8 0) [(0, (List.range 64).map (BitVec.ofNat 8))]
    ((after (exec .salsa20CoreStream s) s).dmem.readBytes 0 8 = hex 8 0x3c561d323c15ba1e) := by decide +kernel
/-- V-CORE-9: the last 64 bytes are in range. -/
theorem test_salsa20CoreStream_range :
    commandError .salsa20CoreStream (busyWith #v[0xFFC1, 0, 0, 0, 0, 0, 0, 0] []) = some .addressRange
    ∧ commandError .salsa20CoreStream (busyWith #v[0xFFC0, 0, 0, 0, 0, 0, 0, 0] []) = none := by decide +kernel
/-- V-CORE-1. -/
theorem test_salsa20CoreHash :
    let s := busyWith #v[3, 0x101, 0, 0, 0, 0, 0, 0] [(3, (List.range 64).map (BitVec.ofNat 8))]
    (after (exec .salsa20CoreHash s) s).dmem.readBytes 0x101 64
      = hex 64 0x3c551b2f3810b417b08ee9e0cf1b3d4eeba8260fef765122b8cf9fd4acabe3651c7e40e6e6ad55d0de38697fb6bb79297409eda12d67e851f18fbad1455d0695 := by
  decide +kernel
/-- V-HS-2. -/
theorem test_hsalsa20 :
    let s := busyWith #v[0, 0x20, 0x40, 0, 0, 0, 0, 0]
      [(0, hex 32 0x1b27556473e985d462cd51197a9a46c76009549eac6474f206c4ee0844f68389), (0x20, hex 16 0x69696ee955b62b73cd62bda875fc73d6)]
    (after (exec (.hsalsa20 32 16) s) s).dmem.readBytes 0x40 32
      = hex 32 0xdc908dda0b9344a953629b733820778880f3ceb421bb61b91cbd4c3e66256ce4 := by decide +kernel

/-- V-HS-5: the word with both fields 0. -/
theorem test_hsalsa20_lengths :
    commandError (.hsalsa20 0 0) (busyWith (Vector.replicate 8 0) []) = some .invalidLength := by decide +kernel

/-- The stream of V-XS-1 (all-zero key and nonce) after `XS.INIT`. -/
def zeroStream : XsUnit := xsLoaded (hex 32 0) (hex 24 0)

/-- V-XS-13 and V-XS-4: the key check comes first; a load leaves counter 0 and no byte. -/
theorem test_xsInit :
    let s := busyWith #v[0, 0x20, 0, 0, 0, 0, 0, 0] []
    commandError (.xsInit 16 16) s = some .invalidKeyLength
    ∧ (after (exec (.xsInit 32 24) s) s).statusWord = 0x00010002
    ∧ (after (exec (.xsInit 32 24) s) s).xs.key.toList.take 8 = hex 8 0x351f86faa3b98846 := by decide +kernel
/-- V-XS-12: "hello world" under the key and nonce of the vectors. -/
theorem test_xsXor :
    let s := { busyWith #v[0x400, 0x500, 11, 0, 0, 0, 0, 0] [(0x400, helloWorld)] with xs := xsLoaded key32 nonce24 }
    let t := after (exec .xsXor s) s
    t.dmem.readBytes 0x500 11 = hex 11 0x14d30cc3b2beb129fd3bb9 ∧ t.xs.next = 1 ∧ t.xs.avail = 53 := by
  decide +kernel
/-- V-XS-9: a partial overlap. -/
theorem test_xsXor_overlap :
    commandError .xsXor { busyWith #v[0x100, 0x108, 16, 0, 0, 0, 0, 0] [] with xs := zeroStream } = some .overlap := by
  decide +kernel
/-- V-XS-5, the second request: bytes 40–79 cross a block boundary. -/
theorem test_xsKeystream_crosses_block :
    let s := { busyWith #v[0, 0x200, 40, 0, 0, 0, 0, 0] [] with xs := (xsTake 40 zeroStream).2 }
    let t := after (exec .xsKeystream s) s
    t.dmem.readBytes 0x200 40
      = hex 40 0xebdef7dc42f494576d05bdd7b929ebb045f2a793f740277d05439702d7bfea6b0419b7b7d02af740
    ∧ t.xs.next = 2 ∧ t.xs.avail = 48 := by decide +kernel
/-- V-XS-10: the ceiling `CTR_LIMIT` = 1. -/
theorem test_xsKeystream_overflow :
    let s := { busyWith #v[0, 0x100, 1, 0, 0, 0, 0, 0] [] with
      xs := { zeroStream with next := 2 }, build := { Config.defaultBuild with ctrLimit := 1 } }
    commandError .xsKeystream s = some .counterOverflow := by decide +kernel
/-- V-P-11. -/
theorem test_pInit :
    let s := busyWith (Vector.replicate 8 0) [(0, hex 32 0x85d6be7857556d337f4452fe42d506a80103808afb0db2fd4abff6af4149f51b)]
    let t := after (exec (.pInit 32) s) s
    t.poly.r = 0x0806d5400e52447c036d555408bed685 ∧ t.poly.s = 0x1bf54941aff6bf4afdb20dfb8a800301
    ∧ t.statusWord = 0x00020002 := by decide +kernel
/-- V-P-9, the second update: 10 bytes held, 24 more, two chunks absorbed. -/
theorem test_pUpdate :
    let s := { busyWith #v[0x4a, 24, 0, 0, 0, 0, 0, 0] [(0x40, (List.range 34).map (BitVec.ofNat 8))] with
      poly := polyAbsorb (polyLoaded key32) ((List.range 10).map (BitVec.ofNat 8)) }
    let t := after (exec .pUpdate s) s
    t.poly.bufLen = 2 ∧ t.poly.buf.toList.take 3 = [32, 33, 0]
    ∧ polyFinalTag t.poly = hex 16 0x71c8400c52797c7a6cfb71c6b80088ac := by decide +kernel
/-- V-P-1 and V-P-12: the tag, and the key consumed. -/
theorem test_pFinal :
    let s := { busyWith #v[0x100, 0, 0, 0, 0, 0, 0, 0] [] with
      poly := polyAbsorb (polyLoaded (hex 32 0x85d6be7857556d337f4452fe42d506a80103808afb0db2fd4abff6af4149f51b))
        (hex 34 0x43727970746f6772617068696320466f72756d2052657365617263682047726f7570) }
    let t := after (exec .pFinal s) s
    t.dmem.readBytes 0x100 16 = hex 16 0xa8061dc1305136c6c22b8baf0c0127a9
    ∧ commandError .pFinal t = some .notInitialised := by decide +kernel
/-- V-P-14: out of range, the key kept. -/
theorem test_pFinal_range :
    let s := { busyWith #v[0xFFF1, 0, 0, 0, 0, 0, 0, 0] [] with poly := polyLoaded key32 }
    (after (exec .pFinal s) s).statusWord = 0x00020604 := by decide +kernel
/-- V-AE-11: in place. -/
theorem test_aeadEnc_in_place :
    let s := busyWith #v[0, 0x20, 0x40, 11, 0x40, 0x800, 0, 0] [(0, key32), (0x20, nonce24), (0x40, helloWorld)]
    let t := after (exec (.aeadEnc 32 24) s) s
    t.dmem.readBytes 0x40 11 = hex 11 0xebbe99b92a90826dcbe184
    ∧ t.dmem.readBytes 0x800 16 = hex 16 0x8185098e9a5187e1abfbe12cfd17d723 := by decide +kernel
/-- V-AE-9: the range error outranks the overlap error; the tag inside the body; the two ceilings. -/
theorem test_aeadEnc_errors :
    let s := fun (x4 x5 : Word) => busyWith #v[0, 0x20, 0x40, 16, x4, x5, 0, 0] []
    commandError (.aeadEnc 32 24) (s 0x48 0x10000) = some .addressRange
    ∧ commandError (.aeadEnc 32 24) (s 0x40 0x48) = some .overlap
    ∧ commandError (.aeadEnc 32 24) { s 0x400 0x800 with build := { Config.defaultBuild with aeadMaxLen := 10 } }
      = some .counterOverflow
    ∧ commandError (.aeadEnc 32 24) { s 0x400 0x800 with build := { Config.defaultBuild with ctrLimit := 0 } }
      = some .counterOverflow := by decide +kernel

/-- The state of the decrypt vectors with a given ciphertext and tag. -/
def decState (ct tag : List Byte) : State :=
  busyWith #v[0, 0x20, 0x400, 11, 0x800, 0x600, 0, 0]
    [(0, key32), (0x20, nonce24), (0x400, ct), (0x600, List.replicate 11 0xaa), (0x800, tag)]

/-- V-AE-4, the decryption. -/
theorem test_aeadDec :
    let s := decState (hex 11 0xebbe99b92a90826dcbe184) (hex 16 0x8185098e9a5187e1abfbe12cfd17d723)
    let t := after (exec (.aeadDec 32 24) s) s
    t.dmem.readBytes 0x600 11 = helloWorld ∧ t.statusWord = 0x00000002 := by decide +kernel
/-- V-AE-6 and V-AE-7: a flipped ciphertext bit, a flipped tag bit. -/
theorem test_aeadDec_flipped :
    let s := decState (hex 11 0xeabe99b92a90826dcbe184) (hex 16 0x8185098e9a5187e1abfbe12cfd17d723)
    let s' := decState (hex 11 0xebbe99b92a90826dcbe184) (hex 16 0x8185098e9a5187e1abfbe12cfd17d7a3)
    let t := after (exec (.aeadDec 32 24) s) s
    t.statusWord = 0x00000904 ∧ t.dmem = s.dmem ∧ commandError (.aeadDec 32 24) s' = some .authenticationFailure := by
  decide +kernel
/-- V-CM-1 to V-CM-3: the last byte differs. -/
theorem test_ctMemcmp :
    let s := fun (b n : Word) => busyWith #v[0, b, n, 0, 0, 0, 0, 0]
      [(0, hex 16 0xa8061dc1305136c6c22b8baf0c0127a9), (0x10, hex 16 0xa8061dc1305136c6c22b8baf0c0127a8)]
    (after (exec .ctMemcmp (s 0 16)) (s 0 16)).result = 0 ∧ (after (exec .ctMemcmp (s 0x10 16)) (s 0 16)).result = 1
    ∧ (after (exec .ctMemcmp (s 0x10 15)) (s 0 16)).result = 0 := by decide +kernel
/-- V-CTL-1. -/
theorem test_zeroize :
    let s := { busyWith (Vector.replicate 8 0) [(0, key32)] with xs := zeroStream, poly := polyLoaded key32, result := 1 }
    let t := after (exec .zeroize s) s
    t.statusWord = 0x00000002 ∧ t.result = 0 ∧ t.dmem = s.dmem := by decide +kernel

/-! Host moves: V-HI-2, V-HI-3, V-HI-5, V-HI-6 and the hazard of R270. -/

/-- One move taken from a state. -/
def moved (m : Move) (s : State) : State := after (step { s with agenda := [m] }) s

theorem test_issue_shows_busy :
    (moved (.write 0x0C (.d32 0x18200010)) State.reset).statusWord = 0x00000001 := by decide +kernel
theorem test_lost_command :
    let s := moved (.write 0x0C (.d32 0x18200010)) State.reset
    let t := moved (.write 0x0C (.d32 0x00200020)) s
    t.statusWord = 0x00000009 ∧ t.pendCmd = 0x18200010 := by decide +kernel
theorem test_status_write_clears :
    (moved (.write 0x08 (.d32 0xFFFFFFFF)) { State.reset with err := true, errCode := 5, cmdLost := true }) = State.reset := by
  decide +kernel
theorem test_soft_reset :
    moved (.write 0x04 (.d32 3)) { State.reset with irqEn := true, arg := Vector.replicate 8 7, done := true, xs := zeroStream }
      = State.reset := by decide +kernel
theorem test_narrow_cmd_write_ignored : moved (.write 0x0C (.d8 0xF0)) State.reset = State.reset := by decide +kernel
theorem test_window_read_upper_half :
    let s := moved (.write 0x10004 (.d32 0x11223344)) State.reset
    (moved (.read 0x10006 .w16) s).busData = 0x1122 := by decide +kernel

/-! For each statement with hypotheses, a state and operands that meet all of them; for each of its clauses, at a boundary of the
clause's range. The theorem is named after the statement. -/

/-- A busy state whose latched word is `w`. -/
def running (w : Word) : State := State.reset.issue w

/-- The next agent step is `m`. -/
def withMove (m : Move) (s : State) : State := { s with agenda := [m] }

/-- A build at a base of its own, with both ceilings low. -/
def lowBuild : Config.Build := { dmemSize := 256, ctrLimit := 1, aeadMaxLen := 64, blockBase := 0x1000 }

theorem witness_DecodeOfEncodeIsTheCommand :
    (Instr.aeadDec 255 255).wellFormed = true ∧ (Instr.pInit 0).wellFormed = true := by decide
theorem witness_EncodeOfDecodeIsTheWord : decode 0xFFFF0031 = .ok (.aeadDec 255 255) := by decide
theorem witness_DecodeFollowsTheMatchMaskTable :
    matchingRows 0x00FF0020 = [.pInit 255] ∧ matchingRows 0x01FF0020 = [] ∧
    (running 0x01FF0020).busy = true ∧ matchingRows (running 0x01FF0020).pendCmd = [] := by decide
theorem witness_IllegalWordsAreTheListedCases :
    (running 0x80).busy = true ∧ decode (running 0x80).pendCmd = .error .reservedOpcode := by decide
theorem witness_StepRunsTheDecodedCommand :
    let s := running 0x18200010
    s.busy = true ∧ decode s.pendCmd = .ok (.xsInit 32 24) ∧ s.agenda = [] ∧
    (withMove .engine s).busy = true ∧ (withMove .engine s).agenda = [.engine] := by decide
theorem witness_StepRunsAPlacedWord :
    decode (BitVec.ofNat 32 0x000000F0) = .ok .zeroize := by decide
/-- The first and the last address of the window, and the addresses around the block. -/
theorem witness_StepFaultsOnlyOnHostAccesses :
    let s := fun (addr : Nat) => withMove (.read addr .w8) { running 0xF0 with build := lowBuild }
    step (s 0x11000) = .fault .hostHazard ∧ step (s 0x01010FFF) = .fault .hostHazard ∧
    step (s 0x01011000) = .fault .addressNotDecoded ∧ step (s 0xFFF) = .fault .addressNotDecoded :=
  ⟨rfl, rfl, rfl, rfl⟩

/-- A busy state with a stream and a key loaded. -/
def loaded : State := { running 0x11 with xs := xsLoaded key32 nonce24, poly := polyLoaded key32 }

theorem witness_loaded_inv : Inv loaded where
  build_legal := by decide +kernel
  dmem_wf := by decide +kernel
  dmem_in_range := by decide +kernel
  done_err := by decide +kernel
  errCode_zero := by decide +kernel
  errCode_le := by decide +kernel
  busy_clear := by decide +kernel
  result_le := by decide +kernel
  xs := ⟨by decide +kernel, by decide +kernel, by decide +kernel, by decide +kernel⟩
  poly := ⟨by decide +kernel, by decide +kernel, by decide +kernel, by decide +kernel, by decide +kernel⟩

theorem witness_BusyEngineCompletesInOneStep : Inv loaded ∧ loaded.busy = true ∧ loaded.agenda = [] :=
  ⟨witness_loaded_inv, rfl, rfl⟩
theorem witness_EveryStepKeepsTheInvariant :
    Inv loaded ∧ ∃ t, step loaded = .next t := ⟨witness_loaded_inv, _, rfl⟩

/-- Each code is reported by some command: `0x02`, `0x03`, `0x05` here; `0x01`, `0x04` and `0x06` to `0x09` in the tests above. -/
theorem witness_ErrorsAreReportedInPriorityOrder :
    commandError (.pInit 31) State.reset = some .invalidKeyLength ∧
    commandError (.aeadEnc 32 16) State.reset = some .invalidNonceLength ∧
    commandError .pFinal State.reset = some .notInitialised ∧ commandError .zeroize State.reset = none ∧
    decode (running 0).pendCmd = .error .zeroOpcode := by decide +kernel
theorem witness_FailedCommandChangesOnlyStatus :
    commandError .xsXor State.reset = some .notInitialised ∧ decode (running 0x101F0).pendCmd = .error .modeBit := by decide
theorem witness_FailedCommandFailsAgain :
    State.reset.arg = State.reset.pendArg ∧ commandError .pUpdate State.reset = some .notInitialised ∧
    exec .pUpdate State.reset = .next (State.reset.raise .notInitialised) := ⟨rfl, rfl, rfl⟩
theorem witness_CommandsKeepEverythingElse : exec .zeroize (running 0xF0) = .next (running 0xF0).finish := rfl
/-- The bytes just before and just after the 64 bytes written at 64. -/
theorem witness_CommandsWriteOnlyTheirOutputRegions :
    let s := busyWith #v[0, 64, 0, 0, 0, 0, 0, 0] []
    (∃ t, exec .salsa20CoreHash s = .next t) ∧ Region.outside (writeRegions .salsa20CoreHash s) 63 ∧
    Region.outside (writeRegions .salsa20CoreHash s) 128 := ⟨⟨_, rfl⟩, by decide, by decide⟩
theorem witness_CommandsReadOnlyTheirInputRegions :
    let s := busyWith (Vector.replicate 8 0) [(0, [1])]
    let m : Memory := [(0, 1), (64, 2)]
    s.dmem.wf ∧ m.wf ∧ commandError .salsa20CoreStream s = none ∧
    ∀ r ∈ readRegions .salsa20CoreStream s, ∀ a, r.covers a = true → m.read a = s.dmem.read a := by
  refine ⟨by decide, by decide, by decide, ?_⟩
  intro r hr a ha
  simp only [readRegions, List.mem_singleton] at hr
  subst hr
  have h64 : a < 64 := by
    simp only [Region.covers, coreIn, State.fixedRegion] at ha
    have h := of_decide_eq_true ha
    simpa [State.x, busyWith] using h
  show Memory.read [(0, 1), (64, 2)] a = Memory.read [(0, 1)] a
  simp only [Memory.read]
  split
  · rfl
  · rw [if_neg (by omega)]
theorem witness_CommandsIgnoreUnlistedArguments :
    (0 : Fin 8) ∉ usedArgs .xsKeystream ∧ (7 : Fin 8) ∉ usedArgs (.aeadEnc 32 24) := by decide

/-- Both regions end at the last byte of DMEM. -/
theorem witness_CoreStreamWritesTheBlock :
    let s := busyWith #v[0xFFC0, 0xFFC0, 0, 0, 0, 0, 0, 0] [(0xFFFF, [5])]
    s.dmem.wf ∧ s.x 0 + 64 = s.build.dmemSize ∧ s.x 1 + 64 = s.build.dmemSize := by decide
theorem witness_CoreHashWritesTheBlock :
    let s := busyWith #v[0, 0xFFC0, 0, 0, 0, 0, 0, 0] []
    s.dmem.wf ∧ s.x 0 + 64 ≤ s.build.dmemSize ∧ s.x 1 + 64 = s.build.dmemSize := by decide
theorem witness_HsalsaWritesTheSubkey :
    let s := busyWith #v[0xFFE0, 0xFFF0, 0xFFE0, 0, 0, 0, 0, 0] []
    s.dmem.wf ∧ s.x 0 + 32 = s.build.dmemSize ∧ s.x 1 + 16 = s.build.dmemSize ∧ s.x 2 + 32 = s.build.dmemSize := by decide
theorem witness_XsInitLoadsTheStream :
    let s := busyWith #v[0xFFE0, 0xFFE8, 0, 0, 0, 0, 0, 0] []
    s.x 0 + 32 = s.build.dmemSize ∧ s.x 1 + 24 = s.build.dmemSize := by decide
/-- In place, to the last byte of DMEM, with the last block the ceiling allows; and an empty request beyond DMEM. -/
theorem witness_XsXorWritesMessageXorKeystream :
    let s := { busyWith #v[128, 128, 128, 0, 0, 0, 0, 0] [] with build := lowBuild, xs := zeroStream }
    let e := { busyWith #v[0xFFFFFFFF, 0, 0, 0, 0, 0, 0, 0] [] with build := lowBuild, xs := zeroStream }
    s.dmem.wf ∧ s.xs.valid = true ∧ s.x 0 + s.x 2 = s.build.dmemSize ∧ s.x 0 = s.x 1 ∧
    s.xs.next + xsNeed s.xs (s.x 2) - 1 = s.build.ctrLimit ∧
    e.xs.valid = true ∧ e.x 2 = 0 ∧ xsNeed e.xs (e.x 2) = 0 := by decide +kernel
theorem witness_XsKeystreamWritesKeystream :
    let s := { busyWith #v[0xFFFFFFFF, 128, 128, 0, 0, 0, 0, 0] [] with build := lowBuild, xs := zeroStream }
    s.dmem.wf ∧ s.xs.valid = true ∧ s.x 1 + s.x 2 = s.build.dmemSize ∧
    s.xs.next + xsNeed s.xs (s.x 2) - 1 = s.build.ctrLimit := by decide +kernel
theorem witness_PInitLoadsTheKey :
    let s := busyWith #v[0xFFE0, 0, 0, 0, 0, 0, 0, 0] []
    s.x 0 + 32 = s.build.dmemSize := by decide
/-- One byte at the end of DMEM into a buffer of 15; and an empty message beyond DMEM. -/
theorem witness_PUpdateAbsorbsTheMessage :
    let s := { busyWith #v[0xFFFF, 1, 0, 0, 0, 0, 0, 0] [] with poly := polyAbsorb (polyLoaded key32) (key32.take 15) }
    let e := { busyWith #v[0xFFFFFFFF, 0, 0, 0, 0, 0, 0, 0] [] with poly := polyLoaded key32 }
    s.poly.valid = true ∧ s.poly.bufLen = 15 ∧ s.x 0 + s.x 1 = s.build.dmemSize ∧
    e.poly.valid = true ∧ e.poly.bufLen = 0 ∧ e.x 1 = 0 := by decide +kernel
theorem witness_PFinalWritesTheTagAndClears :
    let s := { busyWith #v[0xFFF0, 0, 0, 0, 0, 0, 0, 0] [] with poly := polyLoaded key32 }
    s.dmem.wf ∧ s.poly.valid = true ∧ s.x 0 + 16 = s.build.dmemSize := by decide +kernel
/-- An encryption in place at 0x80 with the tag after 64 bytes, in the low build. -/
def encState (len : Word) : State :=
  { busyWith #v[0, 0x20, 0x80, len, 0x80, 0xC0, 0, 0] [] with build := lowBuild }
/-- 64 bytes, at both ceilings. -/
theorem witness_AeadEncWritesBodyAndTag :
    let s := encState 64
    s.dmem.wf ∧ s.regionsValid [aeadKeyIn s, aeadNonceIn s, aeadBodyIn s, encBodyOut s, encTagOut s] = true ∧
    s.x 2 = s.x 4 ∧ Region.disjoint (encTagOut s) (aeadBodyIn s) = true ∧
    Region.disjoint (encTagOut s) (encBodyOut s) = true ∧ s.x 3 = s.build.aeadMaxLen ∧
    (s.x 3 + 63) / 64 = s.build.ctrLimit := by decide
/-- The vectors' decryption, and the same with a flipped tag bit. -/
def decGood : State := decState (hex 11 0xebbe99b92a90826dcbe184) (hex 16 0x8185098e9a5187e1abfbe12cfd17d723)
def decBad : State := decState (hex 11 0xebbe99b92a90826dcbe184) (hex 16 0x8185098e9a5187e1abfbe12cfd17d7a3)
theorem witness_AeadDec_operands :
    ∀ s ∈ [decGood, decBad],
      s.regionsValid [aeadKeyIn s, aeadNonceIn s, aeadBodyIn s, decTagIn s, decBodyOut s] = true ∧
      Region.disjoint (aeadBodyIn s) (decBodyOut s) = true ∧ Region.disjoint (decTagIn s) (decBodyOut s) = true ∧
      s.x 3 ≤ s.build.aeadMaxLen ∧ (s.x 3 + 63) / 64 ≤ s.build.ctrLimit := by decide +kernel
theorem witness_AeadDecWritesThePlaintext :
    decGood.dmem.wf ∧
    poly1305Fn ((xsKs (decGood.dmem.readBytes (decGood.x 0) 32) (decGood.dmem.readBytes (decGood.x 1) 24)
        (64 + decGood.x 3)).take 32) (decGood.dmem.readBytes (decGood.x 2) (decGood.x 3))
      = decGood.dmem.readBytes (decGood.x 4) 16 := by decide +kernel
theorem witness_AeadDecRejectsAWrongTag :
    poly1305Fn ((xsKs (decBad.dmem.readBytes (decBad.x 0) 32) (decBad.dmem.readBytes (decBad.x 1) 24)
        (64 + decBad.x 3)).take 32) (decBad.dmem.readBytes (decBad.x 2) (decBad.x 3))
      ≠ decBad.dmem.readBytes (decBad.x 4) 16 := by decide +kernel
theorem witness_CtMemcmpReportsEquality :
    let s := fun (a b n : Word) => busyWith #v[a, b, n, 0, 0, 0, 0, 0] []
    (s 0 0xFF00 256).x 1 + (s 0 0xFF00 256).x 2 = (s 0 0xFF00 256).build.dmemSize ∧
    (s 0xFFFFFFFF 0xFFFFFFFF 0).x 2 = 0 := by decide
theorem witness_PermutationLaws : (key32 ++ key32).length = 64 := by decide +kernel
/-- A stream with 40 bytes taken, asked for 40 more. -/
theorem witness_StreamCommandsContinueTheStream :
    let i := busyWith #v[0, 0x20, 0, 0, 0, 0, 0, 0] []
    let s := { busyWith #v[0, 0x100, 40, 0, 0, 0, 0, 0] [] with xs := xsAfter key32 nonce24 40 }
    commandError (.xsInit 32 24) i = none ∧ s.dmem.wf ∧ nonce24.length = 24 ∧ commandError .xsXor s = none ∧
    commandError .xsKeystream s = none := by decide +kernel
theorem witness_StreamBytesDoNotDependOnTheSplit_SealIsTheUnitsComposed : nonce24.length = 24 := by decide +kernel
/-- The request that uses the last block the ceiling allows, and an empty one after it. -/
theorem witness_StreamRequestsGenerateOnlyNeededBlocks :
    xsOverflow 1 zeroStream 128 = false ∧ zeroStream.next ≤ 1 + 1 ∧
    xsOverflow 1 (xsAfter key32 nonce24 128) 0 = false ∧ (xsAfter key32 nonce24 128).next = 1 + 1 := by decide +kernel
theorem witness_AccumulatorCommandsComputeTheTag :
    let s := { busyWith #v[0, 31, 0, 0, 0, 0, 0, 0] [] with poly := polyAfter key32 nonce24 }
    commandError (.pInit 32) State.reset = none ∧ s.dmem.wf ∧ commandError .pUpdate s = none ∧
    commandError .pFinal s = none := by decide +kernel
theorem witness_AbsorptionStaysInBounds :
    p1305 - 1 < p1305 ∧ clamp &&& ~~~clamp = 0 ∧ (List.replicate 16 (255 : Byte)).length ≤ 16 := by decide +kernel
theorem witness_OpenInvertsSeal :
    (hex 16 0).length = 16 ∧ hex 16 0 ≠ (aeadSeal key32 nonce24 helloWorld).1 := by decide +kernel
/-- Encryption in place, decryption in place again. -/
theorem witness_AeadDecUndoesAeadEnc :
    let s := busyWith #v[0, 0x20, 0x40, 11, 0x40, 0x4B, 0, 0] [(0, key32), (0x20, nonce24), (0x40, helloWorld)]
    let out : Word := 0x40
    s.dmem.wf ∧ commandError (.aeadEnc 32 24) s = none ∧ Region.disjoint (aeadKeyIn s) (encBodyOut s) = true ∧
    Region.disjoint (aeadKeyIn s) (encTagOut s) = true ∧ Region.disjoint (aeadNonceIn s) (encBodyOut s) = true ∧
    Region.disjoint (aeadNonceIn s) (encTagOut s) = true ∧ out.toNat + s.x 3 ≤ s.build.dmemSize ∧ out.toNat = s.x 4 ∧
    Region.disjoint (encTagOut s) ⟨out.toNat, s.x 3⟩ = true := by decide +kernel

theorem witness_CmdWriteIssues :
    State.reset.busy = false ∧ (withMove (.write 0x00C (.d32 0xFFFFFFFF)) State.reset).hostWrites 0x00C 0xFFFFFFFF [] := by
  decide
/-- A lost write, and each of the three moves that clear `CMD_LOST`. -/
theorem witness_CmdWriteWhileBusyIsLost :
    let s := { running 0xF0 with cmdLost := true }
    (running 0xF0).busy = true ∧ (withMove (.write 0x00C (.d32 0)) (running 0xF0)).hostWrites 0x00C 0 [] ∧
    ∀ m ∈ [Move.write 0x008 (.d32 8), .write 0x004 (.d32 1), .powerOn []],
      (withMove m s).cmdLost = true ∧ (moved m s).cmdLost = false := by decide +kernel
theorem witness_StatusWriteClears :
    (withMove (.write 0x008 (.d32 14)) (running 0xF0)).hostWrites 0x008 14 [] := by decide
/-- The first and the last reserved offset, the first and the last read-only one, and a `CTRL` write without `SRESET`. -/
theorem witness_RegistersAreMapped :
    (∀ offset ∈ [0x048, 0x0FC], (withMove (.read offset .w32) State.reset).hostReads offset [] ∧ offset % 4 = 0 ∧
      0x048 ≤ offset ∧ offset ≤ 0xFF) ∧
    (∀ offset ∈ [0x000, 0x044], (withMove (.read offset .w32) State.reset).hostReads offset []) ∧
    (∀ offset ∈ [0x000, 0x030, 0x0FF], (withMove (.write offset (.d32 7)) State.reset).hostWrites offset 7 []) ∧
    (withMove (.write 0x004 (.d32 2)) State.reset).hostWrites 0x004 2 [] ∧ (2 : Word).getLsbD 0 = false := by decide
theorem witness_ArgumentsAreTheHostsAlone :
    (∀ i ∈ [(0 : Fin 8), 7], (withMove (.write (0x010 + 4 * i.val) (.d32 9)) (running 0xF0)).hostWrites (0x010 + 4 * i.val) 9 [] ∧
      (withMove (.read (0x010 + 4 * i.val) .w32) (running 0xF0)).hostReads (0x010 + 4 * i.val) [] ∧
      (moved (.write (0x010 + 4 * i.val) (.d32 9)) (running 0xF0)).arg ≠ (running 0xF0).arg) ∧
    (∀ m ∈ [Move.write 0x004 (.d32 1), .powerOn []], (moved m { running 0xF0 with arg := Vector.replicate 8 9 }).arg
      ≠ Vector.replicate 8 9) ∧
    (withMove (.write 0x00C (.d32 1)) State.reset).hostWrites 0x00C 1 [] := by decide +kernel
theorem witness_OtherRegisterAccessesAreIgnored :
    (withMove (.read 0x0FF .w8) State.reset).agenda = [.read 0x0FF .w8] ∧ Width.w8 ≠ .w32 ∧
    (withMove (.write 0x00E (.d32 1)) State.reset).agenda = [.write 0x00E (.d32 1)] ∧ 0x00E % 4 ≠ 0 := by decide
/-- The last 16-bit access in DMEM, the one that crosses its end, and the last address of the window, idle and busy. -/
theorem witness_WindowAccessesReadAndWriteDmem :
    let served := fun a => decide (a % Width.w16.bytes = 0 ∧ a + Width.w16.bytes ≤ State.reset.build.dmemSize)
    0xFFFE < 2 ^ 24 ∧ served 0xFFFE = true ∧ served 0xFFFF = false ∧ served 0x10000 = false ∧ 0xFFFFFF < 2 ^ 24 ∧
    served 0xFFFFFF = false ∧ State.reset.busy = false ∧ (running 0xF0).busy = true ∧ State.reset.dmem.wf := by decide
/-- A reset that aborts an illegal word, a command that would fail, and one that would succeed; and an idle one. -/
theorem witness_SoftResetClearsAllButDmem :
    let s := withMove (.write 0x004 (.d32 3)) (running 0)
    s.hostWrites 0x004 3 [] ∧ (3 : Word).getLsbD 0 = true ∧ s.busy = true ∧ decode s.pendCmd = .error .zeroOpcode ∧
    commandError .xsXor (running 0x11) = some .notInitialised ∧ decode (running 0x11).pendCmd = .ok .xsXor ∧
    commandError .salsa20CoreStream (running 1) = none ∧ decode (running 1).pendCmd = .ok .salsa20CoreStream ∧
    Region.outside (writeRegions .salsa20CoreStream (running 1)) 64 ∧ State.reset.busy = false := by decide
theorem witness_PowerOnResetClearsAll :
    let contents : Memory := [(0, 1), (0xFFFF, 2)]
    contents.wf ∧ (∀ c ∈ contents, c.1 < State.reset.build.dmemSize) ∧
    (withMove (.powerOn contents) (running 1)).agenda = [.powerOn contents] := by decide
theorem witness_RegistersAfterReset : ∃ t, t = (running 0xF0).softReset := ⟨_, rfl⟩
/-- `RESULT` set by a compare, cleared by `ZEROIZE` and by a reset. -/
theorem witness_ResultChangesOnlyAtItsEvents :
    let s := { busyWith #v[0, 1, 1, 0, 0, 0, 0, 0] [(0, [1])] with pendCmd := 0x40 }
    let z := { running 0xF0 with result := 1 }
    (after (step s) s).result ≠ s.result ∧ (after (step z) z).result ≠ z.result ∧
    (moved (.write 0x004 (.d32 1)) z).result ≠ z.result := by decide +kernel
/-- `XS_NEXT` advanced by a stream command, cleared by `XS.INIT` and by a reset. -/
theorem witness_StreamCounterChangesOnlyAtItsEvents :
    let s := { busyWith #v[0, 0, 1, 0, 0, 0, 0, 0] [] with pendCmd := 0x111, xs := xsAfter key32 nonce24 64 }
    let z := { s with pendCmd := 0x18200010 }
    (after (step s) s).xs.next ≠ s.xs.next ∧ (after (step z) z).xs.next ≠ z.xs.next ∧
    (moved (.powerOn []) s).xs.next ≠ s.xs.next := by decide +kernel
/-- Two states that differ only in hidden elements. -/
theorem witness_HostMovesShowNothingHidden_CommandsShowOnlyTheirOutputs :
    let s := { running 0x11 with xs := zeroStream, poly := polyLoaded key32 }
    let t := { running 0x11 with xs := xsLoaded key32 nonce24, poly := polyLoaded (hex 32 1) }
    s.visible = t.visible ∧ s ≠ t ∧ Move.read 0x008 .w32 ≠ .engine ∧ Region.outside (writeRegions .xsXor s) 0 := by
  decide +kernel

end Sys2Proof.Tests
end

/-! What a step of the machine can do, said once: a command's completion, the host's accesses, and the moves of the agenda. -/

namespace Sys2Proof.Machine

/-! ## The completion of a command -/

/-- The state a command leaves before it is marked done, when its checks have passed (R240). `exec_eq_conclude` ties it to the
commands. -/
def commandEffect (i : Instr) (s : State) : State :=
  match i with
  | .salsa20CoreStream => s.memWrite (coreOut s) (coreStream (s.memRead (coreIn s)))
  | .salsa20CoreHash => s.memWrite (coreOut s) (coreHash (s.memRead (coreIn s)))
  | .hsalsa20 _ _ => s.memWrite (hsOut s) (hsalsa20Fn (s.memRead (hsKey s)) (s.memRead (hsNonceHead s)))
  | .xsInit _ _ => { s with xs := xsLoaded (s.memRead (xsKeyIn s)) (s.memRead (xsNonceIn s)) }
  | .xsXor =>
    { s.memWrite (xsOut s) (xorBytes (s.memRead (xsIn s)) (xsTake (s.x 2) s.xs).1) with xs := (xsTake (s.x 2) s.xs).2 }
  | .xsKeystream => { s.memWrite (xsOut s) (xsTake (s.x 2) s.xs).1 with xs := (xsTake (s.x 2) s.xs).2 }
  | .pInit _ => { s with poly := polyLoaded (s.memRead (pKeyIn s)) }
  | .pUpdate => { s with poly := polyAbsorb s.poly (s.memRead (pMsgIn s)) }
  | .pFinal => { s.memWrite (pTagOut s) (polyFinalTag s.poly) with poly := PolyUnit.cleared }
  | .aeadEnc _ _ => (s.memWrite (encBodyOut s) (aeadEncSealed s).2).memWrite (encTagOut s) (aeadEncSealed s).1
  | .aeadDec _ _ => ((aeadDecOpened s).map (s.memWrite (decBodyOut s))).getD s
  | .ctMemcmp =>
    { s with result := if ctEq (s.memRead (cmpA s)) (s.memRead (cmpB s)) (s.x 2) then 0 else 1 }
  | .zeroize => { s with xs := XsUnit.cleared, poly := PolyUnit.cleared, result := 0 }

/-- Every command is its checks, then its effect (R240). -/
theorem exec_eq_conclude (i : Instr) (s : State) :
    exec i s = conclude s (commandError i s) fun _ => commandEffect i s := by
  cases i with
  | aeadDec klen nlen =>
    show execAeadDec klen nlen s = conclude s (aeadDecError klen nlen s) _
    unfold execAeadDec commandEffect
    cases aeadDecOpened s <;> rfl
  | _ => rfl

/-- What a command answers: the error of its checks, or its finished effect (R240). -/
theorem exec_next {i : Instr} {s t : State} (h : exec i s = .next t) :
    (∃ e, commandError i s = some e ∧ t = s.raise e) ∨ (commandError i s = none ∧ t = (commandEffect i s).finish) :=
  conclude_next s (commandError i s) _ t (exec_eq_conclude i s ▸ h)

/-- A command's effect touches nothing but `RESULT`, the two units and DMEM. -/
theorem commandEffect_frame (i : Instr) (s : State) :
    commandEffect i s = { s with
      result := (commandEffect i s).result
      xs := (commandEffect i s).xs
      poly := (commandEffect i s).poly
      dmem := (commandEffect i s).dmem } := by
  cases i with
  | aeadDec klen nlen =>
    unfold commandEffect
    cases aeadDecOpened s <;> rfl
  | _ => simp only [commandEffect, State.memWrite]

@[simp] theorem commandEffect_arg (i : Instr) (s : State) : (commandEffect i s).arg = s.arg := by
  rw [commandEffect_frame]

@[simp] theorem commandEffect_pendArg (i : Instr) (s : State) : (commandEffect i s).pendArg = s.pendArg := by
  rw [commandEffect_frame]

/-- A command's checks read the latched copy, not the argument registers (R31). -/
theorem commandError_with_arg (i : Instr) (s : State) (v : Vector Word 8) :
    commandError i { s with arg := v } = commandError i s := by
  cases i <;> rfl

/-- A command's effect reads the latched copy, not the argument registers (R31). -/
theorem commandEffect_with_arg (i : Instr) (s : State) (v : Vector Word 8) :
    commandEffect i { s with arg := v } = { commandEffect i s with arg := v } := by
  cases i with
  | aeadDec klen nlen =>
    have hopened : aeadDecOpened { s with arg := v } = aeadDecOpened s := rfl
    unfold commandEffect
    rw [hopened]
    cases aeadDecOpened s <;> rfl
  | zeroize => rfl
  | _ =>
    simp only [commandEffect, State.memWrite]
    rfl

/-- The argument registers ride along with a command unread (R31). -/
theorem exec_with_arg (i : Instr) (s : State) (v : Vector Word 8) :
    ∃ t, exec i s = .next t ∧ exec i { s with arg := v } = .next { t with arg := v } := by
  rw [exec_eq_conclude, exec_eq_conclude, commandError_with_arg i s v, commandEffect_with_arg i s v]
  cases commandError i s with
  | none => exact ⟨_, rfl, rfl⟩
  | some e => exact ⟨_, rfl, rfl⟩

/-- A completion leaves the argument registers and their latched copy (R31). -/
theorem exec_keeps_args {i : Instr} {s t : State} (h : exec i s = .next t) : t.arg = s.arg ∧ t.pendArg = s.pendArg := by
  obtain ⟨e, -, rfl⟩ | ⟨-, rfl⟩ := exec_next h <;> simp

/-- The engine's turn leaves the argument registers and their latched copy (R31). -/
theorem engineTurn_keeps_args {s t : State} (h : engineTurn s = .next t) : t.arg = s.arg ∧ t.pendArg = s.pendArg := by
  obtain ⟨-, hidle⟩ | ⟨-, e, -, hillegal⟩ | ⟨-, i, -, hexec⟩ := engineTurn_cases s
  · cases hidle.symm.trans h
    exact ⟨rfl, rfl⟩
  · cases hillegal.symm.trans h
    simp
  · exact exec_keeps_args (hexec.symm.trans h)

/-! ## The register aperture -/

/-- The aperture is the first `0x100` bytes of the block (R70). -/
theorem busTarget_eq_register_iff (b : Config.Build) (addr offset : Nat) :
    busTarget b addr = .register offset ↔ addr = b.blockBase + offset ∧ offset < 0x100 := by
  unfold busTarget
  split_ifs with hbelow haperture <;> simp <;> omega

/-- `ARGi` is at `0x010 + 4·i` (R30). -/
theorem argIndex_eq_some_iff {offset : Nat} (haligned : offset % 4 = 0) (i : Fin 8) :
    argIndex offset = some i ↔ offset = 0x010 + 4 * i.val := by
  unfold argIndex
  split_ifs with hrange <;> simp [Fin.ext_iff] <;> omega

theorem argIndex_arg (i : Fin 8) : argIndex (0x010 + 4 * i.val) = some i :=
  (argIndex_eq_some_iff (by omega) i).mpr rfl

theorem State.writeRegister_arg (s : State) (i : Fin 8) (v : Word) :
    s.writeRegister (0x010 + 4 * i.val) v = { s with arg := s.arg.set i v } := by
  unfold State.writeRegister
  rw [argIndex_arg]

theorem State.readRegister_arg (s : State) (i : Fin 8) : s.readRegister (0x010 + 4 * i.val) = s.arg[i] := by
  unfold State.readRegister
  rw [argIndex_arg]

theorem State.writeRegister_status (s : State) (v : Word) : s.writeRegister 0x008 v = s.clearStatus v := rfl

theorem State.writeRegister_cmd (s : State) (v : Word) : s.writeRegister 0x00C v = s.writeCmd v := rfl

/-- The registers a host write reaches (R31, R34, R36, R37); every other offset ignores it. -/
theorem State.writeRegister_cases (s : State) (offset : Nat) (v : Word) :
    (∃ i, argIndex offset = some i ∧ s.writeRegister offset v = { s with arg := s.arg.set i v }) ∨
    (offset = 0x004 ∧ s.writeRegister offset v = s.writeCtrl v) ∨
    (offset = 0x008 ∧ s.writeRegister offset v = s.clearStatus v) ∨
    (offset = 0x00C ∧ s.writeRegister offset v = s.writeCmd v) ∨
    s.writeRegister offset v = s := by
  unfold State.writeRegister
  split
  next i hi => exact .inl ⟨i, hi, rfl⟩
  next => split <;> simp

/-- A `CTRL` write is a soft reset, or it stores `IRQ_EN` (R34). -/
theorem State.writeCtrl_cases (s : State) (v : Word) :
    (v.getLsbD 0 = true ∧ s.writeCtrl v = s.softReset) ∨
    (v.getLsbD 0 = false ∧ s.writeCtrl v = { s with irqEn := v.getLsbD 1 }) := by
  unfold State.writeCtrl
  cases v.getLsbD 0 <;> simp

/-- Neither issuing nor losing a command touches the argument registers (R236, R237). -/
@[simp] theorem State.writeCmd_arg (s : State) (w : Word) : (s.writeCmd w).arg = s.arg := by
  obtain ⟨-, h⟩ | ⟨-, h⟩ := s.writeCmd_cases w <;> simp [h]

/-- A register write changes the argument registers only at their own offsets and by a soft reset (R31). -/
theorem State.writeRegister_arg_changes {s : State} {offset : Nat} {v : Word} (haligned : offset % 4 = 0)
    (h : (s.writeRegister offset v).arg ≠ s.arg) :
    (∃ i : Fin 8, offset = 0x010 + 4 * i.val) ∨ (offset = 0x004 ∧ v.getLsbD 0 = true) := by
  obtain ⟨i, hi, -⟩ | ⟨hctrl, heq⟩ | ⟨-, heq⟩ | ⟨-, heq⟩ | heq := s.writeRegister_cases offset v
  · exact .inl ⟨i, (argIndex_eq_some_iff haligned i).mp hi⟩
  · obtain ⟨hbit, -⟩ | ⟨-, hstore⟩ := s.writeCtrl_cases v
    · exact .inr ⟨hctrl, hbit⟩
    · simp [heq, hstore] at h
  · simp [heq] at h
  · simp [heq] at h
  · simp [heq] at h

/-! ## The host's accesses -/

/-- A host write that is served reaches a register or the window; any other is ignored (R72, R73). -/
theorem State.writeDatum_cases (s : State) (t : BusTarget) (d : Datum) :
    (∃ offset v, t = .register offset ∧ d = .d32 v ∧ offset % 4 = 0 ∧ s.writeDatum t d = s.writeRegister offset v) ∨
    (∃ a, t = .window a ∧ windowServes s.build a d.toBytes.length = true ∧
      s.writeDatum t d = { s with dmem := s.dmem.writeBytes a d.toBytes }) ∨
    s.writeDatum t d = s := by
  unfold State.writeDatum
  split
  next offset v =>
    split
    next haligned => exact .inl ⟨offset, v, rfl, rfl, haligned, rfl⟩
    next => exact .inr (.inr rfl)
  next a =>
    split
    next hserved => exact .inr (.inl ⟨a, rfl, hserved, rfl⟩)
    next => exact .inr (.inr rfl)
  next => exact .inr (.inr rfl)

theorem hostRead_next {s t : State} {addr : Nat} {w : Width} (h : hostRead s addr w = .next t) :
    busFault s (busTarget s.build addr) = none ∧ t = { s with busData := s.readDatum (busTarget s.build addr) w } := by
  unfold hostRead at h
  split at h
  next => cases h
  next hok =>
    cases h
    exact ⟨hok, rfl⟩

theorem hostWrite_next {s t : State} {addr : Nat} {d : Datum} (h : hostWrite s addr d = .next t) :
    busFault s (busTarget s.build addr) = none ∧ t = s.writeDatum (busTarget s.build addr) d := by
  unfold hostWrite at h
  split at h
  next => cases h
  next hok =>
    cases h
    exact ⟨hok, rfl⟩

/-- A window access that does not fault finds the engine idle (R270). -/
theorem busFault_window_eq_none_iff (s : State) (a : Nat) : busFault s (.window a) = none ↔ s.busy = false := by
  cases h : s.busy <;> simp [busFault, h]

/-! ## Steps -/

/-- With no move left the engine steps alone (R7, R246). -/
theorem step_of_nil {s : State} (h : s.agenda = []) : step s = engineTurn s := by
  unfold step agentStep
  rw [h]

/-- The first move of the agenda is taken (R7, R246). -/
theorem step_of_cons {s : State} {m : Move} {rest : List Move} (h : s.agenda = m :: rest) :
    step s = moveTurn m { s with agenda := rest } := by
  unfold step agentStep
  rw [h]

/-- An aligned 32-bit host write in the aperture reaches its register, whatever `BUSY` is (R72). -/
theorem step_of_hostWrites {s : State} {offset : Nat} {v : Word} {rest : List Move} (h : s.hostWrites offset v rest)
    (haperture : offset < 0x100) (haligned : offset % 4 = 0) :
    step s = .next (({ s with agenda := rest } : State).writeRegister offset v) := by
  have htarget := (busTarget_eq_register_iff s.build _ offset).mpr ⟨rfl, haperture⟩
  simp [step_of_cons h, moveTurn, hostWrite, htarget, busFault, State.writeDatum, haligned]

/-- An aligned 32-bit host read in the aperture returns its register, whatever `BUSY` is (R72, R80). -/
theorem step_of_hostReads {s : State} {offset : Nat} {rest : List Move} (h : s.hostReads offset rest)
    (haperture : offset < 0x100) (haligned : offset % 4 = 0) :
    step s = .next { s with agenda := rest, busData := ({ s with agenda := rest } : State).readRegister offset } := by
  have htarget := (busTarget_eq_register_iff s.build _ offset).mpr ⟨rfl, haperture⟩
  simp [step_of_cons h, moveTurn, hostRead, htarget, busFault, State.readDatum, haligned]

/-- All a step that does not stop the machine can be, with the state it leads to. `step_cases` ties it to `step`. -/
inductive StepCase (s : State) : State → Prop where
  /-- The engine's turn, alone or from the agenda. -/
  | engine {t : State} (hagenda : s.agenda = [] ∨ ∃ rest, s.agenda = .engine :: rest)
      (hturn : engineTurn { s with agenda := s.agenda.tail } = .next t) : StepCase s t
  /-- A host read. -/
  | read {addr : Nat} {w : Width} {rest : List Move} (hagenda : s.agenda = .read addr w :: rest)
      (hok : busFault s (busTarget s.build addr) = none) :
      StepCase s { s with
        agenda := rest, busData := ({ s with agenda := rest } : State).readDatum (busTarget s.build addr) w }
  /-- A host write that reaches the register at its offset. -/
  | register {offset : Nat} {v : Word} {rest : List Move} (hwrite : s.hostWrites offset v rest)
      (haperture : offset < 0x100) (haligned : offset % 4 = 0) :
      StepCase s (({ s with agenda := rest } : State).writeRegister offset v)
  /-- A host write that is served in the DMEM window. -/
  | window {addr a : Nat} {d : Datum} {rest : List Move} (hagenda : s.agenda = .write addr d :: rest)
      (htarget : busTarget s.build addr = .window a) (hidle : s.busy = false)
      (hserved : windowServes s.build a d.toBytes.length = true) :
      StepCase s { s with agenda := rest, dmem := s.dmem.writeBytes a d.toBytes }
  /-- A host write that is ignored. -/
  | ignored {addr : Nat} {d : Datum} {rest : List Move} (hagenda : s.agenda = .write addr d :: rest) :
      StepCase s { s with agenda := rest }
  /-- A power-on reset. -/
  | powerOn {contents : List Host.Cell} {rest : List Move} (hagenda : s.agenda = .powerOn contents :: rest) :
      StepCase s (({ s with agenda := rest } : State).powerOnReset contents)

/-- The cases of a served host write. -/
theorem StepCase.of_hostWrite {s t : State} {addr : Nat} {d : Datum} {rest : List Move}
    (hagenda : s.agenda = .write addr d :: rest) (h : hostWrite { s with agenda := rest } addr d = .next t) :
    StepCase s t := by
  obtain ⟨hok, rfl⟩ := hostWrite_next h
  obtain ⟨offset, v, htarget, rfl, haligned, heq⟩ | ⟨a, htarget, hserved, heq⟩ | heq :=
    ({ s with agenda := rest } : State).writeDatum_cases (busTarget s.build addr) d
  · obtain ⟨rfl, haperture⟩ := (busTarget_eq_register_iff s.build addr offset).mp htarget
    rw [heq]
    exact .register hagenda haperture haligned
  · have hidle : s.busy = false := (busFault_window_eq_none_iff _ a).mp (htarget ▸ hok)
    rw [heq]
    exact .window hagenda htarget hidle hserved
  · rw [heq]
    exact .ignored hagenda

/-- What a step can do (R7, R246). -/
theorem step_cases {s t : State} (h : step s = .next t) : StepCase s t := by
  cases hagenda : s.agenda with
  | nil =>
    rw [step_of_nil hagenda] at h
    exact .engine (.inl hagenda) (by rwa [hagenda, List.tail_nil, ← hagenda])
  | cons m rest =>
    rw [step_of_cons hagenda] at h
    cases m with
    | read addr w =>
      obtain ⟨hok, rfl⟩ := hostRead_next h
      exact .read hagenda hok
    | write addr d => exact .of_hostWrite hagenda h
    | powerOn contents =>
      cases h
      exact .powerOn hagenda
    | engine => exact .engine (.inr ⟨rest, hagenda⟩) (by rwa [hagenda])

/-- The events that can change the argument registers (R31): a host write to one of them, a soft reset, a power-on reset. -/
theorem step_arg_changes {s t : State} (h : step s = .next t) (hne : t.arg ≠ s.arg) : ∃ rest,
    (∃ (i : Fin 8) (v : Word), s.hostWrites (0x010 + 4 * i.val) v rest) ∨
    (∃ v, s.hostWrites 0x004 v rest ∧ v.getLsbD 0 = true) ∨ (∃ c, s.agenda = .powerOn c :: rest) := by
  cases step_cases h with
  | engine _ hturn => exact absurd (engineTurn_keeps_args hturn).1 hne
  | read | window | ignored => exact absurd rfl hne
  | register hwrite _ haligned =>
    obtain ⟨i, rfl⟩ | ⟨rfl, hbit⟩ := State.writeRegister_arg_changes haligned hne
    · exact ⟨_, .inl ⟨i, _, hwrite⟩⟩
    · exact ⟨_, .inr (.inl ⟨_, hwrite, hbit⟩)⟩
  | powerOn hagenda => exact ⟨_, .inr (.inr ⟨_, hagenda⟩)⟩

/-- The write-1-to-clear rule, bit by bit (R36). -/
theorem State.clearStatus_eq (s : State) (v : Word) :
    s.clearStatus v = { s with
      done := if v.getLsbD 1 = true then false else s.done
      err := if v.getLsbD 2 = true then false else s.err
      errCode := if v.getLsbD 2 = true then 0 else s.errCode
      cmdLost := if v.getLsbD 3 = true then false else s.cmdLost } := by
  have hand (b c : Bool) : (b && !c) = if c = true then false else b := by cases c <;> simp
  simp only [State.clearStatus, hand]

/-! ## The statements of 10_state.md -/

/-- Settles O45: the write reaches `STATUS`, and each bit clears what R36 says. -/
theorem statusWriteClears : Obligations.StatusWriteClears := by
  intro s v rest hwrite
  rw [step_of_hostWrites hwrite (by decide) (by decide), State.writeRegister_status, State.clearStatus_eq]

/-- Settles O48, clause by clause: the register's own accesses, the copy at issue, the engine, the writers, the commands. -/
theorem argumentsAreTheHostsAlone : Obligations.ArgumentsAreTheHostsAlone := by
  intro s
  refine ⟨fun i v rest hwrite => ?write, fun i rest hread => ?read, fun w rest hidle hwrite => ?issue,
    fun _ => engineTurn_keeps_args, fun _ => step_arg_changes, fun i v => exec_with_arg i s v⟩
  case write => rw [step_of_hostWrites hwrite (by omega) (by omega), State.writeRegister_arg]
  case read => rw [step_of_hostReads hread (by omega) (by omega), State.readRegister_arg]
  case issue =>
    refine ⟨({ s with agenda := rest } : State).issue w, ?_, rfl, rfl⟩
    rw [step_of_hostWrites hwrite (by decide) (by decide), State.writeRegister_cmd]
    simp [State.writeCmd, hidle]

end Sys2Proof.Machine

/-! ## The statements of 20_memory.md

R72 serves only the aligned 32-bit accesses of the aperture; here are the others. -/

namespace Sys2Proof.Machine

theorem State.readDatum_register_other (s : State) {offset : Nat} {w : Width} (hother : w ≠ .w32 ∨ offset % 4 ≠ 0) :
    s.readDatum (.register offset) w = 0 :=
  if_neg fun ⟨hwide, haligned⟩ => hother.elim (· hwide) (· haligned)

theorem State.writeDatum_register_other (s : State) {offset : Nat} {d : Datum}
    (hother : (∀ v, d ≠ .d32 v) ∨ offset % 4 ≠ 0) : s.writeDatum (.register offset) d = s := by
  cases d with
  | d8 | d16 => rfl
  | d32 v =>
    have hmisaligned : offset % 4 ≠ 0 := hother.resolve_left fun hnarrow => hnarrow v rfl
    exact if_neg hmisaligned

/-- A host read in the aperture never faults and changes only the datum returned (R72, R80). -/
theorem step_of_read_register {s : State} {offset : Nat} {w : Width} {rest : List Move}
    (h : s.agenda = .read (s.build.blockBase + offset) w :: rest) (haperture : offset < 0x100) :
    step s = .next { s with
      agenda := rest, busData := ({ s with agenda := rest } : State).readDatum (.register offset) w } := by
  have htarget := (busTarget_eq_register_iff s.build _ offset).mpr ⟨rfl, haperture⟩
  simp [step_of_cons h, moveTurn, hostRead, htarget, busFault]

/-- A host write in the aperture never faults (R72). -/
theorem step_of_write_register {s : State} {offset : Nat} {d : Datum} {rest : List Move}
    (h : s.agenda = .write (s.build.blockBase + offset) d :: rest) (haperture : offset < 0x100) :
    step s = .next (({ s with agenda := rest } : State).writeDatum (.register offset) d) := by
  have htarget := (busTarget_eq_register_iff s.build _ offset).mpr ⟨rfl, haperture⟩
  simp [step_of_cons h, moveTurn, hostWrite, htarget, busFault]

/-- Settles O49: the access reaches its register offset without a fault, and there it reads 0 or writes nothing. -/
theorem otherRegisterAccessesAreIgnored : Obligations.OtherRegisterAccessesAreIgnored := by
  intro s offset rest haperture
  refine ⟨fun w hother hread => ?read, fun d hother hwrite => ?write⟩
  case read => rw [step_of_read_register hread haperture, State.readDatum_register_other _ hother]
  case write => rw [step_of_write_register hwrite haperture, State.writeDatum_register_other _ hother]

end Sys2Proof.Machine

/-! ## The statements of 30_encoding.md

A row of R101 matches a word exactly when the row's command, with the lengths the word declares, encodes to that word; and
that command is the one decoding finds. Decoding is a function, so no second row matches. -/

namespace Sys2Proof

/-! ### A word and its fields -/

section Fields

open BitVec

/-- The five fields are the whole word (R100). -/
theorem append_fields (w : Word) : cmdNlen w ++ (cmdKlen w ++ (cmdRsv w ++ (cmdM w ++ cmdOpc w))) = w := by
  have hmode : cmdM w ++ cmdOpc w = w.extractLsb' 0 9 := extractLsb'_append_extractLsb'_eq_extractLsb' rfl
  have hlow : cmdRsv w ++ w.extractLsb' 0 9 = w.extractLsb' 0 16 := extractLsb'_append_extractLsb'_eq_extractLsb' rfl
  have hkey : cmdKlen w ++ w.extractLsb' 0 16 = w.extractLsb' 0 24 := extractLsb'_append_extractLsb'_eq_extractLsb' rfl
  have hnonce : cmdNlen w ++ w.extractLsb' 0 24 = w.extractLsb' 0 32 := extractLsb'_append_extractLsb'_eq_extractLsb' rfl
  rw [hmode, hlow, hkey, hnonce, extractLsb'_eq_self]

theorem eq_iff_fields (w v : Word) : w = v ↔
    cmdOpc w = cmdOpc v ∧ cmdM w = cmdM v ∧ cmdRsv w = cmdRsv v ∧ cmdKlen w = cmdKlen v ∧ cmdNlen w = cmdNlen v := by
  refine ⟨fun h => by simp [h], fun ⟨hopc, hm, hrsv, hklen, hnlen⟩ => ?_⟩
  rw [← append_fields w, ← append_fields v, hopc, hm, hrsv, hklen, hnlen]

/-- `M` as the bit the word holds it in (R100). -/
theorem cmdM_ne_zero_iff (w : Word) : cmdM w ≠ 0 ↔ w.getLsbD 8 = true := by
  have hbit : w.getLsbD 8 = (cmdM w).getLsbD 0 := by simp [cmdM]
  rw [hbit]
  generalize cmdM w = m
  revert m
  decide

variable (nlen klen : Nat) (m : BitVec 1) (opc : BitVec 8)

@[simp] theorem cmdOpc_packFields : cmdOpc (packFields nlen klen m opc) = opc :=
  (extractLsb'_append_eq_of_add_le (by decide)).trans <| (extractLsb'_append_eq_of_add_le (by decide)).trans <|
    (extractLsb'_append_eq_of_add_le (by decide)).trans extractLsb'_append_eq_right

@[simp] theorem cmdM_packFields : cmdM (packFields nlen klen m opc) = m :=
  (extractLsb'_append_eq_of_add_le (by decide)).trans <| (extractLsb'_append_eq_of_add_le (by decide)).trans <|
    (extractLsb'_append_eq_of_add_le (by decide)).trans extractLsb'_append_eq_left

@[simp] theorem cmdRsv_packFields : cmdRsv (packFields nlen klen m opc) = 0 :=
  (extractLsb'_append_eq_of_add_le (by decide)).trans <|
    (extractLsb'_append_eq_of_add_le (by decide)).trans extractLsb'_append_eq_left

@[simp] theorem cmdKlen_packFields : cmdKlen (packFields nlen klen m opc) = BitVec.ofNat 8 klen :=
  (extractLsb'_append_eq_of_add_le (by decide)).trans extractLsb'_append_eq_left

@[simp] theorem cmdNlen_packFields : cmdNlen (packFields nlen klen m opc) = BitVec.ofNat 8 nlen :=
  extractLsb'_append_eq_left

theorem eq_packFields_iff (w : Word) : w = packFields nlen klen m opc ↔
    cmdOpc w = opc ∧ cmdM w = m ∧ cmdRsv w = 0 ∧ cmdKlen w = BitVec.ofNat 8 klen ∧ cmdNlen w = BitVec.ofNat 8 nlen := by
  simp [eq_iff_fields]

/-! ### The masks of the table -/

/-- The mask of the rows that declare both lengths leaves both fields open. -/
theorem eq_packFields_iff_and_low_half (w : Word) : w = packFields (cmdNlen w).toNat (cmdKlen w).toNat m opc ↔
    w &&& 0x0000FFFF = packFields 0 0 m opc := by
  have hopc : cmdOpc (w &&& 0x0000FFFF) = cmdOpc w := extractLsb'_and.trans and_allOnes
  have hm : cmdM (w &&& 0x0000FFFF) = cmdM w := extractLsb'_and.trans and_allOnes
  have hrsv : cmdRsv (w &&& 0x0000FFFF) = cmdRsv w := extractLsb'_and.trans and_allOnes
  have hklen : cmdKlen (w &&& 0x0000FFFF) = 0 := extractLsb'_and.trans and_zero
  have hnlen : cmdNlen (w &&& 0x0000FFFF) = 0 := extractLsb'_and.trans and_zero
  rw [eq_packFields_iff, eq_packFields_iff, hopc, hm, hrsv, hklen, hnlen]
  simp

/-- The mask of `P.INIT`, which declares a key length only, leaves `KLEN` open. -/
theorem eq_packFields_iff_and_but_klen (w : Word) : w = packFields 0 (cmdKlen w).toNat m opc ↔
    w &&& 0xFF00FFFF = packFields 0 0 m opc := by
  have hopc : cmdOpc (w &&& 0xFF00FFFF) = cmdOpc w := extractLsb'_and.trans and_allOnes
  have hm : cmdM (w &&& 0xFF00FFFF) = cmdM w := extractLsb'_and.trans and_allOnes
  have hrsv : cmdRsv (w &&& 0xFF00FFFF) = cmdRsv w := extractLsb'_and.trans and_allOnes
  have hklen : cmdKlen (w &&& 0xFF00FFFF) = 0 := extractLsb'_and.trans and_zero
  have hnlen : cmdNlen (w &&& 0xFF00FFFF) = cmdNlen w := extractLsb'_and.trans and_allOnes
  rw [eq_packFields_iff, eq_packFields_iff, hopc, hm, hrsv, hklen, hnlen]
  simp

/-- The mask of the rows that declare no length leaves nothing open. -/
theorem and_full_eq_iff (w v : Word) : w &&& 0xFFFFFFFF = v ↔ w = v :=
  iff_of_eq (congrArg (· = v) and_allOnes)

end Fields

/-- A row matches exactly the words its command encodes to with the lengths they declare (R101, R102). -/
theorem rowMatches_iff_eq_encode {w : Word} {i : Instr} (h : i ∈ rowsOf w) :
    w &&& (rowMatchMask i).2 = (rowMatchMask i).1 ↔ w = encode i := by
  cases i with
  | hsalsa20 klen nlen | xsInit klen nlen | aeadEnc klen nlen | aeadDec klen nlen =>
    obtain ⟨rfl, rfl⟩ : klen = (cmdKlen w).toNat ∧ nlen = (cmdNlen w).toNat := by simpa [rowsOf] using h
    exact Iff.symm (eq_packFields_iff_and_low_half _ _ w)
  | pInit klen =>
    obtain rfl : klen = (cmdKlen w).toNat := by simpa [rowsOf] using h
    exact Iff.symm (eq_packFields_iff_and_but_klen _ _ w)
  | _ => exact and_full_eq_iff w _

/-- The lengths a word declares fit the fields they come from (R100, R102). -/
theorem wellFormed_of_mem_rowsOf {w : Word} : ∀ i ∈ rowsOf w, i.wellFormed = true := by
  have hklen : (cmdKlen w).toNat < 256 := (cmdKlen w).isLt
  have hnlen : (cmdNlen w).toNat < 256 := (cmdNlen w).isLt
  simp [rowsOf, Instr.wellFormed, hklen, hnlen]

/-! ### What decoding answers -/

section DecodeOk
variable (w : Word)

@[simp] theorem decodeNoLengths_eq_ok_iff (i j : Instr) :
    decodeNoLengths w j = .ok i ↔ cmdKlen w = 0 ∧ cmdNlen w = 0 ∧ i = j := by
  unfold decodeNoLengths
  split_ifs <;> simp_all [eq_comm]

@[simp] theorem decodeKeyLength_eq_ok_iff (f : Nat → Instr) (i : Instr) :
    decodeKeyLength w f = .ok i ↔ cmdNlen w = 0 ∧ i = f (cmdKlen w).toNat := by
  unfold decodeKeyLength
  split_ifs <;> simp_all [eq_comm]

@[simp] theorem decodeBothLengths_eq_ok_iff (f : Nat → Nat → Instr) (i : Instr) :
    decodeBothLengths w f = .ok i ↔ i = f (cmdKlen w).toNat (cmdNlen w).toNat := by
  simp [decodeBothLengths, eq_comm]

@[simp] theorem decodeOneForm_eq_ok_iff (r : Except Illegal Instr) (i : Instr) :
    decodeOneForm w r = .ok i ↔ cmdM w = 0 ∧ r = .ok i := by
  unfold decodeOneForm
  split_ifs <;> simp_all

theorem decode_eq_ok_iff (i : Instr) : decode w = .ok i ↔ cmdRsv w = 0 ∧ decodeOpcode w = .ok i := by
  unfold decode
  split_ifs <;> simp_all

end DecodeOk

/-- The opcodes of R101; `exists_decode_ok_iff` ties the list to the decoder. -/
def assignedOpcodes : List Nat := [0x01, 0x02, 0x10, 0x11, 0x20, 0x21, 0x22, 0x30, 0x31, 0x40, 0xF0]

theorem opcode_mem_assigned_iff (w : Word) : (cmdOpc w).toNat ∈ assignedOpcodes ↔
    cmdOpc w = 0x01 ∨ cmdOpc w = 0x02 ∨ cmdOpc w = 0x10 ∨ cmdOpc w = 0x11 ∨ cmdOpc w = 0x20 ∨ cmdOpc w = 0x21 ∨
    cmdOpc w = 0x22 ∨ cmdOpc w = 0x30 ∨ cmdOpc w = 0x31 ∨ cmdOpc w = 0x40 ∨ cmdOpc w = 0xF0 := by
  simp [assignedOpcodes, ← BitVec.toNat_inj]

theorem decodeOpcode_of_unassigned {w : Word} (h : (cmdOpc w).toNat ∉ assignedOpcodes) (i : Instr) :
    decodeOpcode w ≠ .ok i := by
  unfold decodeOpcode
  split
  case h_13 => split_ifs <;> simp
  all_goals simp_all [assignedOpcodes]

/-- Decoding finds a row of the table, and the word is the one that row's command encodes to (R101, R102). -/
theorem mem_rowsOf_and_eq_encode_of_decode {w : Word} {i : Instr} (h : decode w = .ok i) :
    i ∈ rowsOf w ∧ w = encode i := by
  obtain ⟨hrsv, hok⟩ := (decode_eq_ok_iff w i).mp h
  by_cases hopc : (cmdOpc w).toNat ∈ assignedOpcodes
  case neg => exact absurd hok (decodeOpcode_of_unassigned hopc i)
  case pos =>
    revert hok
    rw [opcode_mem_assigned_iff] at hopc
    obtain hm | hm := BitVec.eq_zero_or_eq_one (cmdM w)
    all_goals
      rcases hopc with hc | hc | hc | hc | hc | hc | hc | hc | hc | hc | hc <;>
        simp +contextual [decodeOpcode, hc, hm, rowsOf, encode, eq_packFields_iff, hrsv]

/-- The encoder's word is decoded to its command, when the declared lengths fit their fields (R100). -/
theorem decode_encode {i : Instr} (h : i.wellFormed = true) : decode (encode i) = .ok i := by
  cases i with
  | hsalsa20 klen nlen | xsInit klen nlen | aeadEnc klen nlen | aeadDec klen nlen =>
    obtain ⟨hklen, hnlen⟩ : klen < 256 ∧ nlen < 256 := by simpa [Instr.wellFormed] using h
    simp [decode_eq_ok_iff, encode, decodeOpcode, Nat.mod_eq_of_lt hklen, Nat.mod_eq_of_lt hnlen]
  | pInit klen =>
    have hklen : klen < 256 := by simpa [Instr.wellFormed] using h
    simp [decode_eq_ok_iff, encode, decodeOpcode, Nat.mod_eq_of_lt hklen]
  | _ => rfl

theorem mem_matchingRows_iff (w : Word) (i : Instr) : i ∈ matchingRows w ↔ decode w = .ok i := by
  simp only [matchingRows, List.mem_filter, beq_iff_eq]
  constructor
  · rintro ⟨hrow, hmatch⟩
    have hw : w = encode i := (rowMatches_iff_eq_encode hrow).mp hmatch
    rw [hw]
    exact decode_encode (wellFormed_of_mem_rowsOf i hrow)
  · intro h
    obtain ⟨hrow, hw⟩ := mem_rowsOf_and_eq_encode_of_decode h
    exact ⟨hrow, (rowMatches_iff_eq_encode hrow).mpr hw⟩

theorem nodup_matchingRows (w : Word) : (matchingRows w).Nodup :=
  List.Nodup.filter _ (by simp [rowsOf])

/-- R104: no second row matches, as the members of `matchingRows` are what decoding answers. -/
theorem matchingRows_of_ok {w : Word} {i : Instr} (h : decode w = .ok i) : matchingRows w = [i] := by
  refine List.perm_singleton.mp ((List.perm_ext_iff_of_nodup (nodup_matchingRows w) (List.nodup_singleton i)).mpr ?_)
  intro j
  rw [mem_matchingRows_iff, h, List.mem_singleton, Except.ok.injEq, eq_comm]

theorem matchingRows_of_error {w : Word} {e : Illegal} (h : decode w = .error e) : matchingRows w = [] := by
  refine List.eq_nil_iff_forall_not_mem.mpr fun i hi => ?_
  rw [mem_matchingRows_iff, h] at hi
  cases hi

theorem decode_eq_ok_iff_matchingRows (w : Word) (i : Instr) : decode w = .ok i ↔ matchingRows w = [i] :=
  ⟨matchingRows_of_ok, fun h => (mem_matchingRows_iff w i).mp (h ▸ List.mem_singleton_self i)⟩

theorem exists_decode_error_of_no_row {w : Word} (h : ∀ i, matchingRows w ≠ [i]) : ∃ e, decode w = .error e := by
  cases hd : decode w with
  | ok i => exact absurd (matchingRows_of_ok hd) (h i)
  | error e => exact ⟨e, rfl⟩

/-- A word decodes exactly when no case of R105 holds. -/
theorem exists_decode_ok_iff (w : Word) : (∃ i, decode w = .ok i) ↔
    (cmdOpc w).toNat ∈ assignedOpcodes ∧ cmdRsv w = 0 ∧
    (cmdM w ≠ 0 → (cmdOpc w).toNat ∈ [0x01, 0x11]) ∧
    (cmdKlen w ≠ 0 → (cmdOpc w).toNat ∉ [0x01, 0x11, 0x21, 0x22, 0x40, 0xF0]) ∧
    (cmdNlen w ≠ 0 → (cmdOpc w).toNat ∉ [0x01, 0x11, 0x20, 0x21, 0x22, 0x40, 0xF0]) := by
  by_cases hopc : (cmdOpc w).toNat ∈ assignedOpcodes
  case neg => simp [decode_eq_ok_iff, decodeOpcode_of_unassigned hopc, hopc]
  case pos =>
    rcases (opcode_mem_assigned_iff w).mp hopc with hc | hc | hc | hc | hc | hc | hc | hc | hc | hc | hc <;>
      simp [decode_eq_ok_iff, decodeOpcode, hc, assignedOpcodes]

/-- The cases of R105, (a) and (b) as one: an opcode that no row has. -/
theorem exists_decode_error_iff (w : Word) : (∃ e, decode w = .error e) ↔
    (cmdOpc w).toNat ∉ assignedOpcodes ∨ cmdRsv w ≠ 0 ∨
    (cmdM w ≠ 0 ∧ (cmdOpc w).toNat ∉ [0x01, 0x11]) ∨
    (cmdKlen w ≠ 0 ∧ (cmdOpc w).toNat ∈ [0x01, 0x11, 0x21, 0x22, 0x40, 0xF0]) ∨
    (cmdNlen w ≠ 0 ∧ (cmdOpc w).toNat ∈ [0x01, 0x11, 0x20, 0x21, 0x22, 0x40, 0xF0]) := by
  have hexclusive : (∃ e, decode w = .error e) ↔ ¬ ∃ i, decode w = .ok i := by cases decode w <;> simp
  rw [hexclusive, exists_decode_ok_iff]
  tauto

end Sys2Proof

namespace Sys2Proof.Machine

/-- An illegal word completes with `ILLEGAL_CMD`, and does nothing else (R104, R105, R238). -/
theorem engineTurn_of_illegal {s : State} {e : Illegal} (hbusy : s.busy = true) (h : decode s.pendCmd = .error e) :
    engineTurn s = .next { s with busy := false, err := true, errCode := 0x01 } := by
  obtain ⟨hidle, -⟩ | ⟨-, -, -, hturn⟩ | ⟨-, i, hok, -⟩ := engineTurn_cases s
  · simp [hidle] at hbusy
  · exact hturn
  · simp [h] at hok

/-- Settles O4: the rows a word matches are what decoding answers. -/
theorem decodeFollowsTheMatchMaskTable : Obligations.DecodeFollowsTheMatchMaskTable := by
  refine ⟨decode_eq_ok_iff_matchingRows, fun w hnone => ?noRow, fun s hbusy hnone => ?turn⟩
  case noRow =>
    obtain ⟨e, he⟩ := exists_decode_error_of_no_row hnone
    exact ⟨matchingRows_of_error he, e, he⟩
  case turn =>
    obtain ⟨e, he⟩ := exists_decode_error_of_no_row hnone
    exact engineTurn_of_illegal hbusy he

/-- Settles O5: the fields' cases, with `M` read as the bit it is. -/
theorem illegalWordsAreTheListedCases : Obligations.IllegalWordsAreTheListedCases := by
  refine ⟨fun s e => engineTurn_of_illegal, fun w => ?_⟩
  rw [exists_decode_error_iff, cmdM_ne_zero_iff]
  exact Iff.rfl

end Sys2Proof.Machine

/-! The XSalsa20 stream's XOR: a key string at least as long as the message cancels itself. -/

namespace Sys2Proof.Machine

/-- `(s XOR t) XOR t = s` for `len(s) ≤ len(t)`, the lengths for which R12 defines the XOR. -/
theorem xorBytes_xorBytes_cancel (s t : List Byte) (hlen : s.length ≤ t.length) : xorBytes (xorBytes s t) t = s := by
  induction s generalizing t with
  | nil => rfl
  | cons b s ih =>
    cases t with
    | nil => simp at hlen
    | cons k t =>
      have hhead : b ^^^ k ^^^ k = b := by rw [BitVec.xor_assoc, BitVec.xor_self, BitVec.xor_zero]
      have htail : xorBytes (xorBytes s t) t = s := ih t (by simpa using hlen)
      exact congrArg₂ List.cons hhead htail

@[simp] theorem length_xsXorFn (k n m : List Byte) : (xsXorFn k n m).length = m.length := by simp [xsXorFn]

/-- R151: decryption is encryption again. The ciphertext is as long as the message, so both take the same keystream. -/
theorem xsXorFn_xsXorFn (k n m : List Byte) : xsXorFn k n (xsXorFn k n m) = m :=
  calc xsXorFn k n (xsXorFn k n m)
    _ = xorBytes (xsXorFn k n m) (xsKs k n m.length) := by rw [xsXorFn, length_xsXorFn]
    _ = xorBytes (xorBytes m (xsKs k n m.length)) (xsKs k n m.length) := rfl
    _ = m := xorBytes_xorBytes_cancel m _ (by simp)

/-- Settles O33: the second half is R151's definition, written out. -/
theorem xsalsaXorIsAnInvolution : Obligations.XsalsaXorIsAnInvolution :=
  fun k n m => ⟨xsXorFn_xsXorFn k n m, rfl⟩

end Sys2Proof.Machine

/-! ZEROIZE (46_control.md R220): it completes on every state, and the units it leaves refuse the commands that need them loaded. -/

namespace Sys2Proof.Machine

/-- The stream commands check `XS_VALID` before anything else (R155, R156). -/
theorem streamErrors_of_not_valid {s : State} (h : s.xs.valid = false) :
    commandError .xsXor s = some .notInitialised ∧ commandError .xsKeystream s = some .notInitialised := by
  simp [commandError, xsXorError, xsKeystreamError, h]

/-- `P.UPDATE` and `P.FINAL` check `P_VALID` before anything else (R175, R176). -/
theorem polyErrors_of_not_valid {s : State} (h : s.poly.valid = false) :
    commandError .pUpdate s = some .notInitialised ∧ commandError .pFinal s = some .notInitialised := by
  simp [commandError, pUpdateError, pFinalError, h]

/-- `ZEROIZE` checks nothing, so it always reaches its finished effect (R220). -/
theorem exec_zeroize (s : State) : exec .zeroize s = .next (commandEffect .zeroize s).finish := by
  rw [exec_eq_conclude]
  exact conclude_none s _

@[simp] theorem commandEffect_zeroize_xs (s : State) : (commandEffect .zeroize s).xs = XsUnit.cleared := rfl

@[simp] theorem commandEffect_zeroize_poly (s : State) : (commandEffect .zeroize s).poly = PolyUnit.cleared := rfl

/-- Settles O31: the errors that follow are those of units that are not valid. -/
theorem zeroizeClearsTheUnits : Obligations.ZeroizeClearsTheUnits := by
  refine ⟨decode_encode (i := .zeroize) rfl, fun s => ⟨(commandEffect .zeroize s).finish, exec_zeroize s, rfl, ?_⟩⟩
  have hxs : (commandEffect .zeroize s).finish.xs.valid = false := by simp [XsUnit.cleared]
  have hpoly : (commandEffect .zeroize s).finish.poly.valid = false := by simp [PolyUnit.cleared]
  obtain ⟨hxor, hkeystream⟩ := streamErrors_of_not_valid hxs
  obtain ⟨hupdate, hfinal⟩ := polyErrors_of_not_valid hpoly
  exact ⟨hxor, hkeystream, hupdate, hfinal⟩

end Sys2Proof.Machine

/-! ## The statements of 60_exceptions.md

The checks of each command fail exactly at the causes of R231 and stand in the order of the codes; the first check that fails
is then the first cause in R239's order. -/

namespace Sys2Proof.Machine

/-! ### When a check fails -/

/-- Two regions share an address exactly when they are not disjoint (R77). -/
theorem Region.disjoint_eq_false_iff (a b : Region) : Region.disjoint a b = false ↔ a.meets b := by
  rw [← Bool.not_eq_true, Region.disjoint_iff]
  simp only [Region.meets, Region.covers, decide_eq_true_eq]
  constructor
  · intro hmeet
    exact ⟨max a.addr b.addr, by omega⟩
  · rintro ⟨n, ha, hb⟩
    omega

theorem Region.identicalOrDisjoint_eq_false_iff (a b : Region) :
    Region.identicalOrDisjoint a b = false ↔ a ≠ b ∧ a.meets b := by
  simp [Region.identicalOrDisjoint, Region.disjoint_eq_false_iff]

theorem State.regionsValid_eq_false_iff (s : State) (rs : List Region) :
    s.regionsValid rs = false ↔ ∃ r ∈ rs, r.len ≠ 0 ∧ s.build.dmemSize < r.addr + r.len := by
  simp [← Bool.not_eq_true]

theorem aeadLengthOk_eq_false_iff (s : State) :
    aeadLengthOk s = false ↔ s.build.aeadMaxLen < s.x 3 ∨ s.build.ctrLimit < ceilDiv (s.x 3) 64 := by
  rw [aeadLengthOk, decide_eq_false_iff_not]
  omega

theorem xsOverflow_eq_true_iff (ctrLimit : Nat) (u : XsUnit) (len : Nat) :
    xsOverflow ctrLimit u len = true ↔ ctrLimit < u.next + xsNeed u len - 1 ∧ 0 < xsNeed u len := by
  rw [xsOverflow, decide_eq_true_iff, and_comm]

/-- The difference stays zero exactly while no index of the range differs (R210). -/
theorem ctDiff_eq_zero_iff (a b : List Byte) (d : Byte) (i n : Nat) :
    ctDiff a b d i n = 0 ↔ d = 0 ∧ ∀ j, i ≤ j → j < i + n → a.getD j 0 = b.getD j 0 := by
  induction n generalizing d i with
  | zero =>
    have hempty : ∀ j, i ≤ j → j < i + 0 → a.getD j 0 = b.getD j 0 := fun j _ _ => by omega
    exact (and_iff_left hempty).symm
  | succ n ih =>
    have hbyte : (d ||| (a.getD i 0 ^^^ b.getD i 0)) = 0 ↔ d = 0 ∧ a.getD i 0 = b.getD i 0 := by simp
    rw [ctDiff, ih, hbyte, and_assoc]
    refine and_congr_right fun _ => ⟨fun ⟨hfirst, hrest⟩ j hij hjn => ?_, fun hall => ⟨?_, fun j hij hjn => ?_⟩⟩
    · obtain rfl | hlt := Nat.eq_or_lt_of_le hij
      · exact hfirst
      · exact hrest j hlt (by omega)
    · exact hall i (Nat.le_refl i) (by omega)
    · exact hall j (by omega) (by omega)

/-- `CT_EQ` of two strings of the compared length is equality (R210). -/
theorem ctEq_iff_eq {a b : List Byte} {n : Nat} (ha : a.length = n) (hb : b.length = n) :
    ctEq a b n = true ↔ a = b := by
  rw [ctEq, beq_iff_eq, ctDiff_eq_zero_iff]
  constructor
  · rintro ⟨-, hbytes⟩
    refine List.ext_getElem (ha.trans hb.symm) fun j hja hjb => ?_
    simpa [hja, hjb] using hbytes j (Nat.zero_le j) (by omega)
  · rintro rfl
    exact ⟨rfl, fun _ _ _ => rfl⟩

/-- The tag is rejected exactly when it is not the expected one (R191, R194). -/
theorem aeadDecOpened_eq_none_iff (s : State) :
    aeadDecOpened s = none ↔ decExpectedTag s ≠ s.memRead (decTagIn s) := by
  have hbody : (s.memRead (aeadBodyIn s)).length = s.x 3 := s.length_memRead _
  have hexpected : (decExpectedTag s).length = 16 := length_poly1305Fn _ _
  have htag : (s.memRead (decTagIn s)).length = 16 := s.length_memRead _
  rw [ne_eq, ← ctEq_iff_eq hexpected htag]
  simp [aeadDecOpened, aeadOpen, aeadPolyKey, ctOffset, hbody, decExpectedTag]

/-! ### The first check that fails -/

theorem ErrCode.code_toNat_injective : Function.Injective fun e : ErrCode => e.code.toNat := by
  intro e e'
  cases e <;> cases e' <;> decide

/-- Checks in R239's order that fail exactly at the causes. -/
structure ChecksFor (cause : ErrCode → Prop) (checks : List (Bool × ErrCode)) : Prop where
  sorted : checks.Pairwise fun c d => c.2.code.toNat ≤ d.2.code.toNat
  fails_iff : ∀ e, (false, e) ∈ checks ↔ cause e

/-- The error of sorted checks is the failing one of the smallest code (R239). -/
theorem firstError_eq_some_iff {checks : List (Bool × ErrCode)}
    (hsorted : checks.Pairwise fun c d => c.2.code.toNat ≤ d.2.code.toNat) (e : ErrCode) :
    firstError checks = some e ↔
      (false, e) ∈ checks ∧ ∀ e', e'.code.toNat < e.code.toNat → (false, e') ∉ checks := by
  induction checks with
  | nil => simp
  | cons c rest ih =>
    obtain ⟨ok, head⟩ := c
    obtain ⟨hhead, hrest⟩ := List.pairwise_cons.mp hsorted
    cases ok with
    | true => simp [ih hrest]
    | false =>
      have hleast : ∀ e', (false, e') ∈ (false, head) :: rest → head.code.toNat ≤ e'.code.toNat := by
        intro e' hmem
        obtain heq | hmem := List.mem_cons.mp hmem
        · simp_all
        · exact hhead _ hmem
      have hfirst : firstError ((false, head) :: rest) = some e ↔ head = e := by simp
      rw [hfirst]
      constructor
      · rintro rfl
        exact ⟨List.mem_cons_self, fun e' hlt hmem => absurd (hleast e' hmem) (Nat.not_le.mpr hlt)⟩
      · rintro ⟨hmem, hnone⟩
        have hle : e.code.toNat ≤ head.code.toNat :=
          Nat.le_of_not_lt fun hlt => hnone head hlt List.mem_cons_self
        exact ErrCode.code_toNat_injective (Nat.le_antisymm (hleast e hmem) hle)

theorem ChecksFor.firstError_eq_some_iff {cause : ErrCode → Prop} {checks : List (Bool × ErrCode)}
    (h : ChecksFor cause checks) (e : ErrCode) :
    firstError checks = some e ↔ cause e ∧ ∀ e', e'.code.toNat < e.code.toNat → ¬cause e' := by
  simp only [Machine.firstError_eq_some_iff h.sorted, h.fails_iff]

theorem ChecksFor.firstError_eq_none_iff {cause : ErrCode → Prop} {checks : List (Bool × ErrCode)}
    (h : ChecksFor cause checks) : firstError checks = none ↔ ∀ e, ¬cause e := by
  simp [firstError_eq_none, ← h.fails_iff]

/-- Checks made only after others have passed are checks further down the list (R193). -/
theorem firstError_append (checks later : List (Bool × ErrCode)) :
    firstError (checks ++ later) = (firstError checks).or (firstError later) := by
  induction checks with
  | nil => rfl
  | cons c rest ih =>
    obtain ⟨ok, e⟩ := c
    cases ok with
    | true => exact ih
    | false => rfl

/-- `AEAD.DEC` verifies the tag after its other checks (R193). -/
theorem aeadDecError_eq_or (klen nlen : Nat) (s : State) :
    aeadDecError klen nlen s = (aeadDecOperandError klen nlen s).or
      (firstError [((aeadDecOpened s).isSome, .authenticationFailure)]) := by
  unfold aeadDecError
  cases aeadDecOperandError klen nlen s <;> rfl

/-- Every command has such checks (R239): its rule lists them in order, and each fails as R231 says. -/
theorem exists_checksFor (i : Instr) (s : State) :
    ∃ checks, commandError i s = firstError checks ∧ ChecksFor (errorCause i s) checks := by
  cases i with
  | zeroize => exact ⟨[], rfl, .nil, fun e => by cases e <;> simp [errorCause, readRegions, writeRegions]⟩
  | aeadDec klen nlen =>
    refine ⟨_, (aeadDecError_eq_or klen nlen s).trans (firstError_append _ _).symm, ?sorted, fun e => ?fails⟩
    case sorted => simp [ErrCode.code]
    case fails =>
      cases e <;> simp [errorCause, readRegions, writeRegions, State.regionsValid_eq_false_iff,
        Region.disjoint_eq_false_iff, Region.identicalOrDisjoint_eq_false_iff, aeadLengthOk_eq_false_iff,
        aeadDecOpened_eq_none_iff, Bool.and_eq_false_iff, -Bool.and_eq_false_imp]
  | _ =>
    refine ⟨_, rfl, ?sorted, fun e => ?fails⟩
    case sorted => simp [ErrCode.code]
    case fails =>
      cases e <;> simp [errorCause, readRegions, writeRegions, State.regionsValid_eq_false_iff,
        Region.disjoint_eq_false_iff, Region.identicalOrDisjoint_eq_false_iff, aeadLengthOk_eq_false_iff,
        xsOverflow_eq_true_iff, Bool.and_eq_false_iff, -Bool.and_eq_false_imp, or_assoc]

/-- Settles O11: the commands' checks are in R239's order, and an illegal word's turn raises `ILLEGAL_CMD`. -/
theorem errorsAreReportedInPriorityOrder : Obligations.ErrorsAreReportedInPriorityOrder := by
  refine ⟨fun i s e => ?reported, fun i s => ?none, fun s e => engineTurn_of_illegal⟩
  case reported =>
    obtain ⟨checks, hchecks, hcauses⟩ := exists_checksFor i s
    rw [hchecks, hcauses.firstError_eq_some_iff]
  case none =>
    obtain ⟨checks, hchecks, hcauses⟩ := exists_checksFor i s
    rw [hchecks, hcauses.firstError_eq_none_iff]

/-! ### Failed and lost commands -/

/-- Settles O12: such a command completes by raising its error, and nothing else. -/
theorem failedCommandChangesOnlyStatus : Obligations.FailedCommandChangesOnlyStatus := by
  refine ⟨fun i s e herror => ?_, fun s e => engineTurn_of_illegal⟩
  rw [exec_eq_conclude, herror]
  exact conclude_some s _ e

/-- `BUSY` is bit 0 of `STATUS`, below its nine other fields (R35). -/
theorem State.statusWord_busy (s : State) : s.statusWord.getLsbD 0 = s.busy := by
  unfold State.statusWord
  iterate 9 rw [BitVec.getLsbD_append, if_pos (by decide)]
  simp

/-- A host write to `CMD` is `writeCmd`, busy or not (R37). -/
theorem step_of_hostWrites_cmd {s : State} {w : Word} {rest : List Move} (h : s.hostWrites 0x00C w rest) :
    step s = .next (({ s with agenda := rest } : State).writeCmd w) := by
  rw [step_of_hostWrites h (by decide) (by decide), State.writeRegister_cmd]

/-- Settles O43: an idle block issues the word. -/
theorem cmdWriteIssues : Obligations.CmdWriteIssues := by
  intro s w rest hidle hwrite
  have hstep := step_of_hostWrites_cmd hwrite
  obtain ⟨hbusy, -⟩ | ⟨-, hissue⟩ := ({ s with agenda := rest } : State).writeCmd_cases w
  · exact absurd hbusy (by simp [hidle])
  · exact ⟨_, hstep.trans (congrArg _ hissue), rfl, State.statusWord_busy _⟩

@[simp] theorem commandEffect_cmdLost (i : Instr) (s : State) : (commandEffect i s).cmdLost = s.cmdLost := by
  rw [commandEffect_frame]

/-- The engine never touches `CMD_LOST` (R237). -/
theorem engineTurn_keeps_cmdLost {s t : State} (h : engineTurn s = .next t) : t.cmdLost = s.cmdLost := by
  obtain ⟨-, hidle⟩ | ⟨-, e, -, hillegal⟩ | ⟨-, i, -, hexec⟩ := engineTurn_cases s
  · cases hidle.symm.trans h
    rfl
  · cases hillegal.symm.trans h
    rfl
  · obtain ⟨e, -, rfl⟩ | ⟨-, rfl⟩ := exec_next (hexec.symm.trans h) <;> simp

/-- A `CMD` write may set `CMD_LOST`, but never clears it (R236, R237). -/
theorem State.writeCmd_keeps_lost {s : State} (hlost : s.cmdLost = true) (w : Word) : (s.writeCmd w).cmdLost = true := by
  obtain ⟨-, h⟩ | ⟨-, h⟩ := s.writeCmd_cases w <;> simp [h, hlost]

/-- The register writes that clear `CMD_LOST`: `STATUS` with bit 3 (R36), and a soft reset (R267). -/
theorem State.writeRegister_clears_cmdLost {s : State} {offset : Nat} {v : Word} (hlost : s.cmdLost = true)
    (hcleared : (s.writeRegister offset v).cmdLost = false) :
    (offset = 0x008 ∧ v.getLsbD 3 = true) ∨ (offset = 0x004 ∧ v.getLsbD 0 = true) := by
  obtain ⟨i, -, heq⟩ | ⟨hctrl, heq⟩ | ⟨hstatus, heq⟩ | ⟨-, heq⟩ | heq := s.writeRegister_cases offset v
  · simp [heq, hlost] at hcleared
  · obtain ⟨hbit, -⟩ | ⟨-, hstore⟩ := s.writeCtrl_cases v
    · exact .inr ⟨hctrl, hbit⟩
    · simp [heq, hstore, hlost] at hcleared
  · exact .inl ⟨hstatus, by simpa [heq, hlost] using hcleared⟩
  · simp [heq, State.writeCmd_keeps_lost hlost] at hcleared
  · simp [heq, hlost] at hcleared

/-- The events that clear `CMD_LOST`, over every step (R237). -/
theorem step_clears_cmdLost {s t : State} (h : step s = .next t) (hlost : s.cmdLost = true)
    (hcleared : t.cmdLost = false) : ∃ rest,
    (∃ v, s.hostWrites 0x008 v rest ∧ v.getLsbD 3 = true) ∨
    (∃ v, s.hostWrites 0x004 v rest ∧ v.getLsbD 0 = true) ∨ (∃ c, s.agenda = .powerOn c :: rest) := by
  have hne : t.cmdLost ≠ s.cmdLost := by simp [hlost, hcleared]
  cases step_cases h with
  | engine _ hturn => exact absurd (engineTurn_keeps_cmdLost hturn) hne
  | read | window | ignored => exact absurd rfl hne
  | @register _ _ rest hwrite =>
    have hregister := State.writeRegister_clears_cmdLost (s := { s with agenda := rest }) hlost hcleared
    obtain ⟨rfl, hbit⟩ | ⟨rfl, hbit⟩ := hregister
    · exact ⟨_, .inl ⟨_, hwrite, hbit⟩⟩
    · exact ⟨_, .inr (.inl ⟨_, hwrite, hbit⟩)⟩
  | powerOn hagenda => exact ⟨_, .inr (.inr ⟨_, hagenda⟩)⟩

/-- Settles O44: a busy block only records the loss. -/
theorem cmdWriteWhileBusyIsLost : Obligations.CmdWriteWhileBusyIsLost := by
  refine ⟨fun s w rest hbusy hwrite => ?_, fun s t => step_clears_cmdLost⟩
  have hstep := step_of_hostWrites_cmd hwrite
  obtain ⟨-, hlost⟩ | ⟨hidle, -⟩ := ({ s with agenda := rest } : State).writeCmd_cases w
  · exact hstep.trans (congrArg _ hlost)
  · exact absurd hidle (by simp [hbusy])

/-! ### The interrupt output -/

theorem State.irq_of_not_enabled {s : State} (h : s.irqEn = false) : s.irq = false := by simp [State.irq, h]

@[simp] theorem State.softReset_irqEn (s : State) : s.softReset.irqEn = false := by
  obtain ⟨-, h⟩ | ⟨-, h⟩ := s.softReset_cases <;> simp [h]

/-- Settles O51: every reset clears `IRQ_EN`. -/
theorem irqIsTheMaskedCompletion : Obligations.IrqIsTheMaskedCompletion :=
  fun s => ⟨rfl, State.irq_of_not_enabled s.softReset_irqEn,
    fun contents => State.irq_of_not_enabled (s.powerOnReset_irqEn contents), State.irq_of_not_enabled rfl⟩

end Sys2Proof.Machine

/-! ## The statements of 70_reset_and_hazards.md

Both resets end in `clearAll`, so what the host reads after either is what it reads of a cleared state. -/

namespace Sys2Proof.Machine

theorem State.readRegister_id (s : State) : s.readRegister 0x000 = 0x58530100 := rfl

theorem State.readRegister_dmemSize (s : State) : s.readRegister 0x044 = BitVec.ofNat 32 s.build.dmemSize := rfl

/-- Every field of `STATUS` has the reset value 0 (R35, R54). -/
theorem State.clearAll_statusWord (s : State) : s.clearAll.statusWord = 0 := by
  have hend : XsUnit.cleared.atEnd = false := rfl
  have hxs : XsUnit.cleared.valid = false := rfl
  have hpoly : PolyUnit.cleared.valid = false := rfl
  simp [State.statusWord, hend, hxs, hpoly]

/-- A soft reset clears the state, scrambled first when it aborts a command (R267, R268). -/
theorem State.softReset_eq_clearAll (s : State) : ∃ u : State, s.softReset = u.clearAll ∧ u.build = s.build := by
  obtain ⟨-, habort⟩ | ⟨-, hidle⟩ := s.softReset_cases
  · exact ⟨_, habort, State.scramble_build s _⟩
  · exact ⟨s, hidle, rfl⟩

/-- A power-on reset clears the state whose DMEM is already `DMEM_INIT` (R266). -/
theorem State.powerOnReset_eq_clearAll (s : State) (contents : List Host.Cell) :
    s.powerOnReset contents = ({ s with dmem := Memory.ofCells s.build.dmemSize contents } : State).clearAll := rfl

theorem reset_eq_clearAll {s t : State} (h : t = s.softReset ∨ ∃ c, t = s.powerOnReset c) :
    ∃ u : State, t = u.clearAll ∧ u.build = s.build := by
  obtain rfl | ⟨c, rfl⟩ := h
  · exact s.softReset_eq_clearAll
  · exact ⟨_, s.powerOnReset_eq_clearAll c, rfl⟩

/-- Settles O54: either reset leaves a cleared state of the same build. -/
theorem registersAfterReset : Obligations.RegistersAfterReset := by
  intro s t hreset
  obtain ⟨u, rfl, hbuild⟩ := reset_eq_clearAll hreset
  have hirqEn := u.clearAll_irqEn
  have hsize := u.clearAll.readRegister_dmemSize
  rw [State.clearAll_build, hbuild] at hsize
  exact ⟨u.clearAll_busy, hirqEn, State.irq_of_not_enabled hirqEn, u.clearAll_statusWord, State.readRegister_id _, hsize⟩

end Sys2Proof.Machine

/-! Encoding: the words of 30_encoding.md R107, and encoding against decoding. -/

namespace Sys2Proof

/-- Settles O2: each field of the packed word reads back, and the opcode picks the command's row. -/
theorem decodeOfEncodeIsTheCommand : Obligations.DecodeOfEncodeIsTheCommand := fun _ => decode_encode

/-- Settles O3: decoding finds a row of the table, whose command encodes to the word. -/
theorem encodeOfDecodeIsTheWord : Obligations.EncodeOfDecodeIsTheWord := by
  intro w i h
  obtain ⟨hrow, hword⟩ := mem_rowsOf_and_eq_encode_of_decode h
  exact ⟨hword.symm, wellFormed_of_mem_rowsOf i hrow⟩

/-- The commands of R107 with the lengths the table declares, in its order. `canonicalWordsDecode` ties them to the words. -/
def canonicalCommands : List Instr :=
  [.salsa20CoreStream, .salsa20CoreHash, .hsalsa20 32 16, .xsInit 32 24, .xsXor, .xsKeystream, .pInit 32, .pUpdate,
    .pFinal, .aeadEnc 32 24, .aeadDec 32 24, .ctMemcmp, .zeroize]

/-- Settles O1: the words are the encodings of well-formed commands. -/
theorem canonicalWordsDecode : Obligations.CanonicalWordsDecode := by
  have hdecode : ∀ i ∈ canonicalCommands, decode (encode i) = .ok i :=
    fun i hi => decode_encode (List.all_eq_true.mp (rfl : canonicalCommands.all Instr.wellFormed = true) i hi)
  have hlist : (canonicalCommands.map encode).map decode = canonicalCommands.map .ok := by
    rw [List.map_map]
    exact List.map_congr_left hdecode
  exact hlist

end Sys2Proof

/-! What a command's checks and its effect look at, and what they leave: the rules the statements about commands use. -/

namespace Sys2Proof.Machine

/-! ### The checks -/

/-- The checks look at the latched arguments, the build, the two units and DMEM (R110, R232). -/
theorem commandError_congr (i : Instr) {s t : State} (hargs : t.pendArg = s.pendArg) (hbuild : t.build = s.build)
    (hxs : t.xs = s.xs) (hpoly : t.poly = s.poly) (hdmem : t.dmem = s.dmem) : commandError i t = commandError i s := by
  cases s
  cases t
  subst hargs hbuild hxs hpoly hdmem
  cases i <;> rfl

/-- A command whose checks pass meets none of the causes of R231. -/
theorem no_errorCause {i : Instr} {s : State} (h : commandError i s = none) (e : ErrCode) : ¬errorCause i s e :=
  (errorsAreReportedInPriorityOrder.2.1 i s).mp h e

/-- A command whose checks pass writes within DMEM (R75). -/
theorem writeRegions_valid {i : Instr} {s : State} (h : commandError i s = none) {r : Region}
    (hr : r ∈ writeRegions i s) : r.len = 0 ∨ r.addr + r.len ≤ s.build.dmemSize := by
  by_contra hinvalid
  exact no_errorCause h .addressRange ⟨r, List.mem_append_right _ hr, by omega⟩

/-- A command whose checks pass answers its finished effect (R240). -/
theorem exec_of_no_error {i : Instr} {s : State} (h : commandError i s = none) :
    exec i s = .next (commandEffect i s).finish := by
  rw [exec_eq_conclude, h, conclude_none]

/-- A command whose checks fail raises the error (R238). -/
theorem exec_of_error {i : Instr} {s : State} {e : ErrCode} (h : commandError i s = some e) :
    exec i s = .next (s.raise e) := by
  rw [exec_eq_conclude, h, conclude_some]

/-! ### The effect -/

@[simp] theorem commandEffect_err (i : Instr) (s : State) : (commandEffect i s).err = s.err := by
  rw [commandEffect_frame]

@[simp] theorem commandEffect_errCode (i : Instr) (s : State) : (commandEffect i s).errCode = s.errCode := by
  rw [commandEffect_frame]

@[simp] theorem commandEffect_irqEn (i : Instr) (s : State) : (commandEffect i s).irqEn = s.irqEn := by
  rw [commandEffect_frame]

@[simp] theorem commandEffect_pendCmd (i : Instr) (s : State) : (commandEffect i s).pendCmd = s.pendCmd := by
  rw [commandEffect_frame]

@[simp] theorem commandEffect_build (i : Instr) (s : State) : (commandEffect i s).build = s.build := by
  rw [commandEffect_frame]

@[simp] theorem commandEffect_agenda (i : Instr) (s : State) : (commandEffect i s).agenda = s.agenda := by
  rw [commandEffect_frame]

@[simp] theorem commandEffect_busData (i : Instr) (s : State) : (commandEffect i s).busData = s.busData := by
  rw [commandEffect_frame]

@[simp] theorem commandEffect_freeCount (i : Instr) (s : State) : (commandEffect i s).freeCount = s.freeCount := by
  rw [commandEffect_frame]

/-- The streaming unit's writers (R50). -/
theorem commandEffect_xs {i : Instr} (hinit : ∀ k n, i ≠ .xsInit k n) (hxor : i ≠ .xsXor) (hks : i ≠ .xsKeystream)
    (hzero : i ≠ .zeroize) (s : State) : (commandEffect i s).xs = s.xs := by
  cases i with
  | xsInit k n => exact absurd rfl (hinit k n)
  | xsXor => exact absurd rfl hxor
  | xsKeystream => exact absurd rfl hks
  | zeroize => exact absurd rfl hzero
  | aeadDec klen nlen => unfold commandEffect; cases aeadDecOpened s <;> rfl
  | _ => simp only [commandEffect, State.memWrite_xs]

/-- The accumulator unit's writers (R52). -/
theorem commandEffect_poly {i : Instr} (hinit : ∀ k, i ≠ .pInit k) (hupdate : i ≠ .pUpdate) (hfinal : i ≠ .pFinal)
    (hzero : i ≠ .zeroize) (s : State) : (commandEffect i s).poly = s.poly := by
  cases i with
  | pInit k => exact absurd rfl (hinit k)
  | pUpdate => exact absurd rfl hupdate
  | pFinal => exact absurd rfl hfinal
  | zeroize => exact absurd rfl hzero
  | aeadDec klen nlen => unfold commandEffect; cases aeadDecOpened s <;> rfl
  | _ => simp only [commandEffect, State.memWrite_poly]

/-- The writers of `RESULT` (R38). -/
theorem commandEffect_result {i : Instr} (hcmp : i ≠ .ctMemcmp) (hzero : i ≠ .zeroize) (s : State) :
    (commandEffect i s).result = s.result := by
  cases i with
  | ctMemcmp => exact absurd rfl hcmp
  | zeroize => exact absurd rfl hzero
  | aeadDec klen nlen => unfold commandEffect; cases aeadDecOpened s <;> rfl
  | _ => simp only [commandEffect, State.memWrite_result]

/-- `RESULT` after a compare is one bit (R211). -/
theorem commandEffect_ctMemcmp_result (s : State) :
    (commandEffect .ctMemcmp s).result = 0 ∨ (commandEffect .ctMemcmp s).result = 1 := by
  show (if ctEq _ _ _ = true then (0 : Word) else 1) = 0 ∨ (if ctEq _ _ _ = true then (0 : Word) else 1) = 1
  split <;> simp

/-! ### The bytes a command stores -/

/-- The strings a command stores, each with its region, in order. `commandEffect_dmem` ties them to the effect. -/
def commandOutputs (i : Instr) (s : State) : List (Region × List Byte) :=
  match i with
  | .salsa20CoreStream => [(coreOut s, coreStream (s.memRead (coreIn s)))]
  | .salsa20CoreHash => [(coreOut s, coreHash (s.memRead (coreIn s)))]
  | .hsalsa20 _ _ => [(hsOut s, hsalsa20Fn (s.memRead (hsKey s)) (s.memRead (hsNonceHead s)))]
  | .xsXor => [(xsOut s, xorBytes (s.memRead (xsIn s)) (xsTake (s.x 2) s.xs).1)]
  | .xsKeystream => [(xsOut s, (xsTake (s.x 2) s.xs).1)]
  | .pFinal => [(pTagOut s, polyFinalTag s.poly)]
  | .aeadEnc _ _ => [(encBodyOut s, (aeadEncSealed s).2), (encTagOut s, (aeadEncSealed s).1)]
  | .aeadDec _ _ => ((aeadDecOpened s).map (decBodyOut s, ·)).toList
  | .xsInit _ _ | .pInit _ | .pUpdate | .ctMemcmp | .zeroize => []

/-- DMEM after strings are stored one after another. -/
def Memory.store (m : Memory) (outputs : List (Region × List Byte)) : Memory :=
  outputs.foldl (fun m o => m.writeBytes o.1.addr o.2) m

@[simp] theorem Memory.store_nil (m : Memory) : m.store [] = m := rfl

@[simp] theorem Memory.store_cons (m : Memory) (r : Region) (v : List Byte) (rest : List (Region × List Byte)) :
    m.store ((r, v) :: rest) = (m.writeBytes r.addr v).store rest := rfl

/-- A command's effect on DMEM is to store its outputs. -/
theorem commandEffect_dmem (i : Instr) (s : State) : (commandEffect i s).dmem = s.dmem.store (commandOutputs i s) := by
  cases i with
  | aeadDec klen nlen => unfold commandEffect commandOutputs; cases aeadDecOpened s <;> rfl
  | _ => simp only [commandEffect, commandOutputs, State.memWrite_dmem, Memory.store_cons, Memory.store_nil]

/-- The plaintext is as long as the body (R191). -/
theorem length_of_aeadOpen {k n ct tag pt : List Byte} (h : aeadOpen k n ct tag = some pt) : pt.length = ct.length := by
  obtain ⟨-, rfl⟩ : _ ∧ xorBytes ct (aeadBodyKs k n ct.length) = pt := by simpa [aeadOpen] using h
  simp [aeadBodyKs]

theorem length_of_aeadDecOpened {s : State} {pt : List Byte} (h : aeadDecOpened s = some pt) : pt.length = s.x 3 :=
  (length_of_aeadOpen h).trans (s.length_memRead _)

@[simp] theorem length_polyFinalTag (u : PolyUnit) : (polyFinalTag u).length = 16 := length_polyTag _ _

@[simp] theorem length_aeadSeal_body (k n pt : List Byte) : (aeadSeal k n pt).2.length = pt.length := by
  simp [aeadSeal, aeadBodyKs]

@[simp] theorem length_aeadSeal_tag (k n pt : List Byte) : (aeadSeal k n pt).1.length = 16 := length_poly1305Fn _ _

/-- Each string stored fills an output region of the command (R110, R268). -/
theorem mem_commandOutputs {i : Instr} {s : State} {o : Region × List Byte} (ho : o ∈ commandOutputs i s) :
    o.1 ∈ writeRegions i s ∧ o.2.length = o.1.len := by
  cases i with
  | xsInit | pInit | pUpdate | ctMemcmp | zeroize => cases ho
  | aeadDec klen nlen =>
    obtain ⟨pt, hpt, rfl⟩ : ∃ pt, aeadDecOpened s = some pt ∧ (decBodyOut s, pt) = o := by
      simpa [commandOutputs] using ho
    exact ⟨List.mem_singleton_self _, length_of_aeadDecOpened hpt⟩
  | aeadEnc klen nlen =>
    obtain rfl | rfl : o = (encBodyOut s, (aeadEncSealed s).2) ∨ o = (encTagOut s, (aeadEncSealed s).1) := by
      simpa [commandOutputs] using ho
    · exact ⟨by simp [writeRegions], by simp [aeadEncSealed, encBodyOut, aeadBodyIn, State.lenRegion]⟩
    · exact ⟨by simp [writeRegions], by simp [aeadEncSealed, encTagOut, State.fixedRegion]⟩
  | _ =>
    obtain rfl := List.mem_singleton.mp ho
    exact ⟨List.mem_singleton_self _, by
      simp [coreOut, hsOut, pTagOut, xsOut, xsIn, State.fixedRegion, State.lenRegion]⟩

/-- When its checks pass a command stores a string in each of its output regions. -/
theorem exists_mem_commandOutputs {i : Instr} {s : State} (h : commandError i s = none) {r : Region}
    (hr : r ∈ writeRegions i s) : ∃ v, (r, v) ∈ commandOutputs i s := by
  cases i with
  | xsInit | pInit | pUpdate | ctMemcmp | zeroize => cases hr
  | aeadDec klen nlen =>
    obtain ⟨pt, hpt⟩ := Option.isSome_iff_exists.mp ((aeadDecError_eq_none klen nlen s).mp h).2
    obtain rfl := List.mem_singleton.mp hr
    exact ⟨pt, by simp [commandOutputs, hpt]⟩
  | aeadEnc klen nlen =>
    obtain rfl | rfl : r = encBodyOut s ∨ r = encTagOut s := by simpa [writeRegions] using hr
    · exact ⟨_, List.mem_cons_self⟩
    · exact ⟨_, List.mem_cons_of_mem _ List.mem_cons_self⟩
  | _ =>
    obtain rfl := List.mem_singleton.mp hr
    exact ⟨_, List.mem_singleton_self _⟩

/-- Storing keeps the canonical form. -/
theorem Memory.wf_store (outputs : List (Region × List Byte)) {m : Memory} (hm : m.wf) : (m.store outputs).wf := by
  induction outputs generalizing m with
  | nil => exact hm
  | cons o rest ih => exact ih (Memory.wf_writeBytes o.2 m hm o.1.addr)

/-- Storing leaves every byte outside the regions stored to. -/
theorem Memory.read_store_outside (outputs : List (Region × List Byte)) (m : Memory) (a : Nat)
    (h : ∀ o ∈ outputs, o.2.length = o.1.len ∧ o.1.covers a = false) : (m.store outputs).read a = m.read a := by
  induction outputs generalizing m with
  | nil => rfl
  | cons o rest ih =>
    obtain ⟨⟨hlen, hcovers⟩, hrest⟩ := List.forall_mem_cons.mp h
    have hoff : a < o.1.addr ∨ o.1.addr + o.2.length ≤ a := by
      simp only [Region.covers, decide_eq_false_iff_not] at hcovers
      omega
    exact (ih (m.writeBytes o.1.addr o.2) hrest).trans (Memory.read_writeBytes_outside o.2 m o.1.addr a hoff)

/-- A command leaves every byte outside its output regions (R223). -/
theorem exec_keeps_outside {i : Instr} {s t : State} {a : Nat} (h : exec i s = .next t)
    (ha : Region.outside (writeRegions i s) a) : t.dmem.read a = s.dmem.read a := by
  obtain ⟨e, -, rfl⟩ | ⟨-, rfl⟩ := exec_next h
  · rfl
  · rw [State.finish_dmem, commandEffect_dmem]
    refine Memory.read_store_outside _ _ _ fun o ho => ?_
    obtain ⟨hregion, hlen⟩ := mem_commandOutputs ho
    exact ⟨hlen, ha _ hregion⟩

/-- Settles O15: a command only stores its outputs. -/
theorem commandsWriteOnlyTheirOutputRegions : Obligations.CommandsWriteOnlyTheirOutputRegions :=
  fun _ _ _ _ => exec_keeps_outside

/-- Settles O14: an error keeps all but the status, and the effect has few writers. -/
theorem commandsKeepEverythingElse : Obligations.CommandsKeepEverythingElse := by
  intro i s t h
  obtain ⟨e, -, rfl⟩ | ⟨-, rfl⟩ := exec_next h
  · simp
  · simp only [State.finish_arg, State.finish_pendArg, State.finish_pendCmd, State.finish_cmdLost, State.finish_irqEn,
      State.finish_build, State.finish_agenda, State.finish_busData, State.finish_freeCount, commandEffect_arg,
      commandEffect_pendArg, commandEffect_pendCmd, commandEffect_cmdLost, commandEffect_irqEn, commandEffect_build,
      commandEffect_agenda, commandEffect_busData, commandEffect_freeCount, true_and]
    exact ⟨fun hinit hxor hks hzero => commandEffect_xs hinit hxor hks hzero s,
      fun hinit hupdate hfinal hzero => commandEffect_poly hinit hupdate hfinal hzero s,
      fun hcmp hzero => commandEffect_result hcmp hzero s⟩

/-- Settles O9: an error raises its code, and the effect leaves the status for the completion to set. -/
theorem everyCommandCompletes : Obligations.EveryCommandCompletes := by
  intro i s
  cases h : commandError i s with
  | some e => exact ⟨_, exec_of_error h, by simp⟩
  | none => exact ⟨_, exec_of_no_error h, by simp⟩

/-- Settles O13: the checks see the latched arguments, the units and DMEM, which the failure left. -/
theorem failedCommandFailsAgain : Obligations.FailedCommandFailsAgain := by
  intro i s t e hargs herror h
  obtain rfl : s.raise e = t := by simpa [exec_of_error herror] using h
  have hagain : commandError i ((s.raise e).issue (encode i)) = some e :=
    (commandError_congr i (t := (s.raise e).issue (encode i)) hargs rfl rfl rfl rfl).trans herror
  exact ⟨_, exec_of_error hagain, by simp⟩

/-- A busy engine whose word decodes runs the command (R240). -/
theorem engineTurn_of_ok {s : State} {i : Instr} (hbusy : s.busy = true) (h : decode s.pendCmd = .ok i) :
    engineTurn s = exec i s := by
  simp [engineTurn, hbusy, h]

/-- Settles O6: the engine moves first in an empty agenda, or by its own turn. -/
theorem stepRunsTheDecodedCommand : Obligations.StepRunsTheDecodedCommand := by
  intro s i rest hbusy hdecode
  refine ⟨fun hnil => ?alone, fun hcons => ?turn⟩
  case alone => exact (step_of_nil hnil).trans (engineTurn_of_ok hbusy hdecode)
  case turn => exact (step_of_cons hcons).trans (engineTurn_of_ok (s := { s with agenda := rest }) hbusy hdecode)

/-- Settles O7: whether or not moves were coming, the engine's turn on the issued state is next. -/
theorem stepRunsAPlacedWord : Obligations.StepRunsAPlacedWord := by
  intro s w i hdecode
  have hword : BitVec.ofNat 32 (w % 2 ^ 32) = BitVec.ofNat 32 w := by
    apply BitVec.eq_of_toNat_eq
    simp
  have hturn : engineTurn (s.issue (BitVec.ofNat 32 w)) = exec i (s.issue (BitVec.ofNat 32 w)) :=
    engineTurn_of_ok rfl hdecode
  rw [← hturn]
  cases hagenda : s.agenda with
  | nil =>
    have hplaced : s.withFetchWord 32 w = s.issue (BitVec.ofNat 32 w) := by
      simp only [State.withFetchWord, State.latchWord, hword, hagenda]
      rw [← hagenda]
      rfl
    exact hplaced ▸ step_of_nil (s := s.issue _) hagenda
  | cons m rest =>
    have hplaced : (s.withFetchWord 32 w).agenda = .engine :: m :: rest := by
      simp [State.withFetchWord, State.latchWord, hagenda]
    rw [step_of_cons hplaced]
    simp only [State.withFetchWord, State.latchWord, hword, ← hagenda]
    rfl

end Sys2Proof.Machine

/-! The streaming unit (42_xsalsa20_stream.md): a unit with `p` bytes taken gives keystream byte `p` next, so a request of any
length gives the next bytes of the one-shot keystream. -/

namespace Sys2Proof.Machine

/-! ### The one-shot keystream, byte by byte -/

/-- Byte `p` of the keystream of key `k` and nonce `n` (R150); `slice_xsKs` ties it to `xsKs`. -/
def keystreamByte (k n : List Byte) (p : Nat) : Byte :=
  (salsa20Block (hsalsa20Fn k (slice n 0 16)) (slice n 16 24) (p / 64)).getD (p % 64) 0

/-- Bytes `p … p+len−1` of the keystream. -/
def keystreamFrom (k n : List Byte) (p len : Nat) : List Byte := (List.range' p len).map (keystreamByte k n)

@[simp] theorem length_keystreamFrom (k n : List Byte) (p len : Nat) : (keystreamFrom k n p len).length = len := by
  simp [keystreamFrom]

theorem keystreamFrom_succ (k n : List Byte) (p len : Nat) :
    keystreamFrom k n p (len + 1) = keystreamByte k n p :: keystreamFrom k n (p + 1) len := rfl

/-- Byte `j` of joined blocks lies in block `j / 64` of them. -/
theorem getElem_keystreamBlocks (k n : List Byte) (c m j : Nat) (hj : j < (keystreamBlocks k n c m).length) :
    (keystreamBlocks k n c m)[j] = (salsa20Block k n (c + j / 64)).getD (j % 64) 0 := by
  induction m generalizing c j with
  | zero => simp at hj
  | succ m ih =>
    rw [length_keystreamBlocks] at hj
    simp only [keystreamBlocks]
    by_cases hfirst : j < 64
    · rw [List.getElem_append_left (by simpa using hfirst), Nat.div_eq_of_lt hfirst, Nat.mod_eq_of_lt hfirst]
      simp [hfirst]
    · have hblock : c + 1 + (j - 64) / 64 = c + j / 64 := by omega
      have hbyte : (j - 64) % 64 = j % 64 := by omega
      rw [List.getElem_append_right (by simp; omega)]
      simp only [length_salsa20Block]
      rw [ih, hblock, hbyte]

theorem getElem_xsKs (k n : List Byte) (len j : Nat) (hj : j < (xsKs k n len).length) :
    (xsKs k n len)[j] = keystreamByte k n j := by
  simp only [xsKs, List.getElem_take, getElem_keystreamBlocks, Nat.zero_add, keystreamByte]

/-- A part of a keystream does not depend on the length asked for (R150). -/
theorem slice_xsKs (k n : List Byte) {len p q : Nat} (hq : q ≤ len) :
    slice (xsKs k n len) p q = keystreamFrom k n p (q - p) := by
  apply List.ext_getElem
  · simp only [length_slice, length_xsKs, length_keystreamFrom]
    omega
  · intro j _ _
    simp [slice, keystreamFrom, getElem_xsKs]

/-! ### One byte of a request -/

theorem xsLoaded_eq_xsAfter (k n : List Byte) : xsLoaded k n = xsAfter k n 0 := rfl

/-- The block the unit generates when no unused byte is left (R154). -/
theorem xsRefill_of_avail_zero {u : XsUnit} (h : u.avail = 0) : xsRefill u =
    { u with buf := bytesFrom 64 (salsa20Block u.key.toList u.nt.toList u.next), next := u.next + 1, avail := 64 } :=
  if_pos h

theorem xsRefill_of_avail_pos {u : XsUnit} (h : 0 < u.avail) : xsRefill u = u := if_neg (by omega)

section AtPosition

variable {k n : List Byte} (hn : n.length = 24)
include hn

/-- The loaded unit holds the subkey and the nonce tail (R153). -/
theorem xsLoaded_key_nt : (xsLoaded k n).key.toList = hsalsa20Fn k (slice n 0 16) ∧
    (xsLoaded k n).nt.toList = slice n 16 24 := by
  simp [xsLoaded, hn]

/-- At a block boundary the refill generates the next block; within a block there is nothing to do (R154, R157). -/
theorem xsRefill_xsAfter (p : Nat) : xsRefill (xsAfter k n p) =
    { xsLoaded k n with
      next := p / 64 + 1
      buf := bytesFrom 64 (salsa20Block (hsalsa20Fn k (slice n 0 16)) (slice n 16 24) (p / 64))
      avail := 64 - p % 64 } := by
  obtain ⟨hkey, hnt⟩ := xsLoaded_key_nt (k := k) hn
  by_cases hboundary : p % 64 = 0
  · have havail : (xsAfter k n p).avail = 0 := by simp only [xsAfter, ceilDiv]; omega
    have hnext : (xsAfter k n p).next = p / 64 := by simp only [xsAfter, ceilDiv]; omega
    rw [xsRefill_of_avail_zero havail, hnext, hboundary]
    simp only [xsAfter, hkey, hnt]
  · have hblocks : ceilDiv p 64 = p / 64 + 1 := by simp only [ceilDiv]; omega
    have havail : 64 * (p / 64 + 1) - p = 64 - p % 64 := by omega
    have hstarted : p ≠ 0 := by rintro rfl; exact hboundary rfl
    rw [xsRefill_of_avail_pos (by simp only [xsAfter, hblocks]; omega)]
    simp only [xsAfter, hblocks, havail, if_neg hstarted, Nat.add_sub_cancel]

/-- The next byte is the byte at the position (R157). -/
theorem xsNextByte_xsAfter (p : Nat) : xsNextByte (xsRefill (xsAfter k n p)) = keystreamByte k n p := by
  have hindex : 64 - (64 - p % 64) = p % 64 := by omega
  rw [xsRefill_xsAfter hn]
  simp [xsNextByte, keystreamByte, hindex]

/-- Taking a byte moves the position by one (R157). -/
theorem xsAdvance_xsAfter (p : Nat) : xsAdvance (xsAfter k n p) = xsAfter k n (p + 1) := by
  have hblocks : ceilDiv (p + 1) 64 = p / 64 + 1 := by simp only [ceilDiv]; omega
  have havail : 64 - p % 64 - 1 = 64 * (p / 64 + 1) - (p + 1) := by omega
  simp only [xsAdvance, xsRefill_xsAfter hn]
  simp only [xsAfter, hblocks, havail, if_neg (Nat.succ_ne_zero p), Nat.add_sub_cancel]

/-! ### Requests of any length -/

/-- A request gives the next bytes of the keystream, and moves the position by its length (R157). -/
theorem xsTake_xsAfter (p len : Nat) :
    xsTake len (xsAfter k n p) = (keystreamFrom k n p len, xsAfter k n (p + len)) := by
  induction len generalizing p with
  | zero => rfl
  | succ len ih =>
    have hposition : p + 1 + len = p + (len + 1) := by omega
    simp only [xsTake, xsAdvance_xsAfter hn, xsNextByte_xsAfter hn, ih, keystreamFrom_succ, hposition]

/-- Earlier requests only move the position (R157). -/
theorem foldl_xsTake_xsAfter (p : Nat) (before : List Nat) :
    before.foldl (fun u l => (xsTake l u).2) (xsAfter k n p) = xsAfter k n (p + before.sum) := by
  induction before generalizing p with
  | nil => rfl
  | cons len before ih => rw [List.foldl_cons, xsTake_xsAfter hn, ih, List.sum_cons, Nat.add_assoc]

end AtPosition

/-- Settles O35: both sides are the keystream bytes from the position the earlier requests reach. -/
theorem streamBytesDoNotDependOnTheSplit : Obligations.StreamBytesDoNotDependOnTheSplit := by
  intro k n before len later hn
  have hwithin : before.sum + len ≤ (before ++ len :: later).sum := by simp
  rw [xsLoaded_eq_xsAfter, foldl_xsTake_xsAfter hn, Nat.zero_add, xsTake_xsAfter hn, slice_xsKs k n hwithin,
    Nat.add_sub_cancel_left]

/-- The keystream bytes a stream command at position `p` uses. -/
theorem slice_xsKs_of_position (k n : List Byte) (p len : Nat) :
    slice (xsKs k n (p + len)) p (p + len) = keystreamFrom k n p len := by
  rw [slice_xsKs k n (Nat.le_refl _), Nat.add_sub_cancel_left]

/-- Settles O34: the stream commands hand the request to the unit, and store what it gives. -/
theorem streamCommandsContinueTheStream : Obligations.StreamCommandsContinueTheStream := by
  refine ⟨fun s hok => ⟨_, exec_of_no_error hok, xsLoaded_eq_xsAfter _ _⟩, fun s k n p hwf hn hxs => ?_⟩
  have htaken : xsTake (s.x 2) s.xs = (keystreamFrom k n p (s.x 2), xsAfter k n (p + s.x 2)) := by
    rw [hxs, xsTake_xsAfter hn]
  rw [slice_xsKs_of_position]
  refine ⟨fun hok => ⟨_, exec_of_no_error hok, ?xorBytes, ?xorUnit⟩,
    fun hok => ⟨_, exec_of_no_error hok, ?ksBytes, ?ksUnit⟩⟩
  case xorBytes =>
    have hlen : (xorBytes (s.memRead (xsIn s)) (keystreamFrom k n p (s.x 2))).length = (xsOut s).len := by
      simp [xsIn, xsOut, State.lenRegion]
    simp only [commandEffect, htaken]
    exact s.memRead_memWrite hwf _ _ hlen
  case xorUnit => simp only [commandEffect, htaken, State.finish_xs]
  case ksBytes =>
    simp only [commandEffect, htaken]
    exact s.memRead_memWrite hwf _ _ (length_keystreamFrom k n p _)
  case ksUnit => simp only [commandEffect, htaken, State.finish_xs]

/-! ### Blocks generated, whatever the unit -/

/-- Taking a byte keeps what the stream is made from (R154). -/
theorem xsAdvance_keeps (u : XsUnit) :
    (xsAdvance u).key = u.key ∧ (xsAdvance u).nt = u.nt ∧ (xsAdvance u).valid = u.valid := by
  unfold xsAdvance xsRefill
  split <;> simp

/-- Taking a byte uses one of those left, after a block is added to them when there are none (R154). -/
theorem xsAdvance_counts (u : XsUnit) :
    (u.avail = 0 ∧ (xsAdvance u).next = u.next + 1 ∧ (xsAdvance u).avail = 63) ∨
    (0 < u.avail ∧ (xsAdvance u).next = u.next ∧ (xsAdvance u).avail = u.avail - 1) := by
  unfold xsAdvance xsRefill
  split <;> simp <;> omega

/-- The blocks a request needs are those its first byte needs and those the rest needs (R154). -/
theorem next_add_xsNeed_succ (u : XsUnit) (len : Nat) :
    (xsAdvance u).next + xsNeed (xsAdvance u) len = u.next + xsNeed u (len + 1) := by
  unfold xsNeed ceilDiv
  obtain ⟨hnone, hnext, havail⟩ | ⟨hsome, hnext, havail⟩ := xsAdvance_counts u <;>
    rw [hnext, havail] <;> split_ifs <;> omega

theorem xsTake_keeps (len : Nat) (u : XsUnit) :
    (xsTake len u).2.key = u.key ∧ (xsTake len u).2.nt = u.nt ∧ (xsTake len u).2.valid = u.valid := by
  induction len generalizing u with
  | zero => exact ⟨rfl, rfl, rfl⟩
  | succ len ih =>
    obtain ⟨hkey, hnt, hvalid⟩ := xsAdvance_keeps u
    simpa only [xsTake, hkey, hnt, hvalid] using ih (xsAdvance u)

/-- A request advances the counter by `need(L)` (R154). -/
theorem xsTake_next (len : Nat) (u : XsUnit) : (xsTake len u).2.next = u.next + xsNeed u len := by
  induction len generalizing u with
  | zero => simp [xsTake, xsNeed]
  | succ len ih => rw [xsTake, ih, next_add_xsNeed_succ]

/-- Every byte is taken from those left and those generated (R154). -/
theorem xsTake_avail (len : Nat) (u : XsUnit) : (xsTake len u).2.avail + len = u.avail + 64 * xsNeed u len := by
  induction len generalizing u with
  | zero => simp [xsTake, xsNeed]
  | succ len ih =>
    have hrest := ih (xsAdvance u)
    have hneed := next_add_xsNeed_succ u len
    show (xsTake len (xsAdvance u)).2.avail + (len + 1) = u.avail + 64 * xsNeed u (len + 1)
    obtain ⟨hnone, hnext, havail⟩ | ⟨hsome, hnext, havail⟩ := xsAdvance_counts u <;> omega

/-- A request that does not overflow stays within the ceiling (R154). -/
theorem xsTake_next_le {u : XsUnit} {len ctrLimit : Nat} (hok : xsOverflow ctrLimit u len = false)
    (hle : u.next ≤ ctrLimit + 1) : (xsTake len u).2.next ≤ ctrLimit + 1 := by
  simp only [xsOverflow, decide_eq_false_iff_not] at hok
  rw [xsTake_next]
  omega

/-- Settles O36: by induction on the length, over the one byte `xsAdvance` takes. -/
theorem streamRequestsGenerateOnlyNeededBlocks : Obligations.StreamRequestsGenerateOnlyNeededBlocks :=
  fun u len _ hok => ⟨xsTake_next len u, xsTake_next_le hok, xsTake_avail len u, xsTake_keeps len u⟩

end Sys2Proof.Machine

/-! The accumulator unit (43_poly1305.md): a unit given the bytes `m` holds the full chunks of `m` absorbed and the rest of `m`
buffered, so the tag it finishes with is the one-shot tag. -/

namespace Sys2Proof.Machine

/-! ### Absorbing chunks -/

/-- The last of `n + 1` chunks is the one after `n` chunks (R173). -/
theorem absorbChunks_succ (r n acc : Nat) (m : List Byte) :
    absorbChunks r (n + 1) acc m = pBlock (absorbChunks r n acc m) r ((m.drop (16 * n)).take 16) := by
  induction n generalizing acc m with
  | zero => rfl
  | succ n ih =>
    have hdrop : (m.drop 16).drop (16 * n) = m.drop (16 * (n + 1)) := by rw [List.drop_drop]; congr 1; omega
    rw [absorbChunks, ih, hdrop]
    rfl

/-- Full chunks do not see what follows them (R173). -/
theorem absorbChunks_append (r n acc : Nat) {m : List Byte} (rest : List Byte) (hm : 16 * n ≤ m.length) :
    absorbChunks r n acc (m ++ rest) = absorbChunks r n acc m := by
  induction n with
  | zero => rfl
  | succ n ih =>
    have hchunk : ((m ++ rest).drop (16 * n)).take 16 = (m.drop (16 * n)).take 16 := by
      rw [List.drop_append_of_le_length (by omega), List.take_append_of_le_length (by simp; omega)]
    rw [absorbChunks_succ, absorbChunks_succ, ih (by omega), hchunk]

/-! ### Giving bytes to the unit -/

/-- A string shorter than its buffer is followed by zeros there (log 13). -/
theorem getElem_bytesFrom (n : Nat) (l : List Byte) (i : Nat) (hi : i < n) : (bytesFrom n l)[i] = l.getD i 0 := by
  by_cases hlt : i < l.length
  · simp [bytesFrom, hlt]
  · simp [bytesFrom, List.getElem_append_right (Nat.not_lt.mp hlt), Nat.not_lt.mp hlt]

/-- A string read back from the start of its buffer. -/
theorem take_toList_bytesFrom {n : Nat} {l : List Byte} (hl : l.length ≤ n) :
    (bytesFrom n l).toList.take l.length = l := by
  simp [bytesFrom, Vector.toList, List.take_take, Nat.min_eq_left hl]

/-- Writing the byte after a string into a buffer that holds the string. -/
theorem bytesFrom_setIfInBounds {n : Nat} {l : List Byte} (b : Byte) :
    (bytesFrom n l).setIfInBounds l.length b = bytesFrom n (l ++ [b]) := by
  apply Vector.ext
  intro i hi
  rw [Vector.getElem_setIfInBounds, getElem_bytesFrom, getElem_bytesFrom]
  obtain hlt | rfl | hgt := Nat.lt_trichotomy i l.length
  · rw [if_neg (by omega), List.getD_append _ _ _ _ hlt]
  · simp
  · rw [if_neg (by omega), List.getD_eq_default _ _ (by omega), List.getD_eq_default _ _ (by simp; omega)]

theorem bytesFrom_nil : bytesFrom 16 [] = zeros 16 := rfl

theorem polyLoaded_eq_polyAfter (k : List Byte) : polyLoaded k = polyAfter k [] := rfl

/-- Giving one byte more (R175, R177): it joins the buffered ones, and a full buffer is the next chunk. -/
theorem polyAbsorbByte_polyAfter (k m : List Byte) (b : Byte) :
    polyAbsorbByte (polyAfter k m) b = polyAfter k (m ++ [b]) := by
  have htail : (m.drop (16 * (m.length / 16))).length = m.length % 16 := by simp; omega
  have hbuf : (polyAfter k m).buf.setIfInBounds (polyAfter k m).bufLen b
      = bytesFrom 16 (m.drop (16 * (m.length / 16)) ++ [b]) := by
    show (bytesFrom 16 _).setIfInBounds (m.length % 16) b = _
    rw [← htail]
    exact bytesFrom_setIfInBounds b
  have hdrop : (m ++ [b]).drop (16 * (m.length / 16)) = m.drop (16 * (m.length / 16)) ++ [b] :=
    List.drop_append_of_le_length (by omega)
  have hacc : absorbChunks (polyR k).toNat (m.length / 16) 0 (m ++ [b])
      = absorbChunks (polyR k).toNat (m.length / 16) 0 m := absorbChunks_append _ _ _ _ (by omega)
  simp only [polyAbsorbByte, hbuf]
  by_cases hfull : m.length % 16 + 1 = 16
  · have hchunks : (m ++ [b]).length / 16 = m.length / 16 + 1 := by simp; omega
    have hrest : (m ++ [b]).length % 16 = 0 := by simp; omega
    have hend : (m ++ [b]).drop (16 * (m.length / 16 + 1)) = [] := by simp; omega
    have hchunk : (m.drop (16 * (m.length / 16)) ++ [b]).length = 16 := by rw [List.length_append, htail]; exact hfull
    simp only [polyAfter, if_pos hfull, hchunks, hrest, hend, absorbChunks_succ, hacc, hdrop, bytesFrom_nil,
      toList_bytesFrom 16 _ hchunk, List.take_of_length_le (Nat.le_of_eq hchunk)]
    rfl
  · have hchunks : (m ++ [b]).length / 16 = m.length / 16 := by simp; omega
    have hrest : (m ++ [b]).length % 16 = m.length % 16 + 1 := by simp; omega
    simp only [polyAfter, hchunks, hrest, hacc, hdrop]
    exact if_neg hfull

/-- Giving a string after another (R177). -/
theorem polyAbsorb_polyAfter (k m rest : List Byte) : polyAbsorb (polyAfter k m) rest = polyAfter k (m ++ rest) := by
  induction rest generalizing m with
  | nil => simp [polyAbsorb]
  | cons b rest ih =>
    have hfirst : polyAbsorb (polyAfter k m) (b :: rest) = polyAbsorb (polyAbsorbByte (polyAfter k m) b) rest := rfl
    rw [hfirst, polyAbsorbByte_polyAfter, ih, List.append_assoc, List.singleton_append]

/-- The tag the unit finishes with is the one-shot tag: the buffered bytes are its last, short chunk (R173, R176). -/
theorem polyFinalTag_polyAfter (k m : List Byte) : polyFinalTag (polyAfter k m) = poly1305Fn k m := by
  have hacc : polyFinalAcc (polyAfter k m) = absorbChunks (polyR k).toNat (ceilDiv m.length 16) 0 m := by
    by_cases hshort : 0 < m.length % 16
    · have htail : (m.drop (16 * (m.length / 16))).length = m.length % 16 := by simp; omega
      have hbytes : (bytesFrom 16 (m.drop (16 * (m.length / 16)))).toList.take (m.length % 16)
          = (m.drop (16 * (m.length / 16))).take 16 := by
        rw [List.take_of_length_le (i := 16) (by omega), ← htail]
        exact take_toList_bytesFrom (by omega)
      have hchunks : ceilDiv m.length 16 = m.length / 16 + 1 := by simp only [ceilDiv]; omega
      rw [hchunks, absorbChunks_succ, ← hbytes]
      exact if_pos hshort
    · have hchunks : ceilDiv m.length 16 = m.length / 16 := by simp only [ceilDiv]; omega
      rw [hchunks]
      exact if_neg hshort
  rw [polyFinalTag, hacc]
  rfl

theorem foldl_polyAbsorb_polyAfter (k m : List Byte) (ms : List (List Byte)) :
    ms.foldl polyAbsorb (polyAfter k m) = polyAfter k (m ++ ms.flatten) := by
  induction ms generalizing m with
  | nil => simp
  | cons part ms ih => rw [List.foldl_cons, polyAbsorb_polyAfter, ih, List.flatten_cons, List.append_assoc]

/-- Settles O38: the parts leave their concatenation given. -/
theorem tagDoesNotDependOnTheSplit : Obligations.TagDoesNotDependOnTheSplit := by
  intro k ms
  rw [polyLoaded_eq_polyAfter, foldl_polyAbsorb_polyAfter, polyFinalTag_polyAfter, List.nil_append]

/-- Settles O37: the accumulator commands hand the bytes to the unit, and store the tag it finishes with. -/
theorem accumulatorCommandsComputeTheTag : Obligations.AccumulatorCommandsComputeTheTag := by
  refine ⟨fun s hok => ⟨_, exec_of_no_error hok, polyLoaded_eq_polyAfter _⟩, fun s k m hwf hpoly =>
    ⟨fun hok => ⟨_, exec_of_no_error hok, ?update⟩, fun hok => ⟨_, exec_of_no_error hok, ?final⟩⟩⟩
  case update => simp only [commandEffect, State.finish_poly, hpoly, polyAbsorb_polyAfter]
  case final =>
    rw [← polyFinalTag_polyAfter, ← hpoly]
    exact s.memRead_memWrite hwf (pTagOut s) _ (length_polyFinalTag s.poly)

/-! ### The bounds of one absorption -/

/-- A clamped `r` is at most the mask (R171, R178). -/
theorem toNat_le_clamp {r : BitVec 128} (h : r &&& ~~~clamp = 0) : r.toNat ≤ clamp.toNat := by
  have hmasked : r &&& clamp = r := by
    apply BitVec.eq_of_getLsbD_eq
    intro i hi
    have hbit : (r &&& ~~~clamp).getLsbD i = false := by rw [h]; exact BitVec.getLsbD_zero
    rw [BitVec.getLsbD_and, BitVec.getLsbD_not] at hbit
    rw [BitVec.getLsbD_and]
    cases hr : r.getLsbD i <;> simp_all
  calc r.toNat
    _ = (r &&& clamp).toNat := by rw [hmasked]
    _ = r.toNat &&& clamp.toNat := BitVec.toNat_and _ _
    _ ≤ clamp.toNat := Nat.and_le_right

theorem clamp_lt : clamp.toNat < 2 ^ 124 := by decide

theorem pBlock_lt (acc r : Nat) (c : List Byte) : pBlock acc r c < p1305 := Nat.mod_lt _ (by decide)

/-- A chunk with its set bit is below twice `256` to its length (R178). -/
theorem paddedChunk_le {c : List Byte} (hc : c.length ≤ 16) : le c + 2 ^ (8 * c.length) ≤ 2 ^ 129 - 1 := by
  have hpow : 2 ^ (8 * c.length) ≤ 2 ^ 128 := Nat.pow_le_pow_right (by decide) (by omega)
  have hle : le c < 2 ^ (8 * c.length) := by
    rw [Nat.pow_mul]
    exact le_lt c
  omega

/-- Settles O39: the sum is below `2^130 + 2^129`, and `r` below `2^124`. -/
theorem absorptionStaysInBounds : Obligations.AbsorptionStaysInBounds := by
  intro acc r c hacc hr hc
  have hchunk := paddedChunk_le hc
  have hclamp := toNat_le_clamp hr
  have hsum : acc + (le c + 2 ^ (8 * c.length)) ≤ 2 ^ 130 + 2 ^ 129 := by
    have hp : p1305 ≤ 2 ^ 130 := by decide
    omega
  have hproduct : (acc + (le c + 2 ^ (8 * c.length))) * r.toNat < 2 ^ 255 :=
    calc (acc + (le c + 2 ^ (8 * c.length))) * r.toNat
      _ ≤ (2 ^ 130 + 2 ^ 129) * 2 ^ 124 := Nat.mul_le_mul hsum (hclamp.trans clamp_lt.le)
      _ < 2 ^ 255 := by decide
  exact ⟨hchunk, hclamp, clamp_lt, hproduct, pBlock_lt acc r.toNat c⟩

end Sys2Proof.Machine

/-! The invariant `Inv`: it holds of every cleared state, a command's effect keeps each unit's part of it, and so every step of
either agent keeps the whole. -/

namespace Sys2Proof.Machine

/-! ### The units -/

theorem xsUnitInv_cleared (ctrLimit : Nat) : XsUnitInv ctrLimit XsUnit.cleared where
  avail_le := Nat.zero_le _
  next_le := Nat.zero_le _
  cleared _ := rfl
  buffered h := absurd h (Nat.lt_irrefl 0)

theorem xsUnitInv_loaded (ctrLimit : Nat) (k n : List Byte) : XsUnitInv ctrLimit (xsLoaded k n) where
  avail_le := Nat.zero_le _
  next_le := Nat.zero_le _
  cleared h := Bool.noConfusion h
  buffered h := absurd h (Nat.lt_irrefl 0)

/-- The part of the streaming unit's invariant that speaks of `KS_BUF`: unused bytes are those of the block before `XS_NEXT`
(R46). -/
structure KeystreamBuffered (u : XsUnit) : Prop where
  avail_le : u.avail ≤ 64
  buffered : 0 < u.avail → 1 ≤ u.next ∧ u.buf.toList = salsa20Block u.key.toList u.nt.toList (u.next - 1)

/-- Taking a byte leaves the rest of the same block, or of the one generated for it (R154). -/
theorem KeystreamBuffered.xsAdvance {u : XsUnit} (h : KeystreamBuffered u) : KeystreamBuffered (xsAdvance u) := by
  by_cases hempty : u.avail = 0
  · constructor <;> simp [Machine.xsAdvance, xsRefill_of_avail_zero hempty]
  · have hrefill : xsRefill u = u := xsRefill_of_avail_pos (Nat.pos_of_ne_zero hempty)
    have hle := h.avail_le
    refine ⟨?_, fun _ => ?_⟩
    · simp only [Machine.xsAdvance, hrefill]
      omega
    · simp only [Machine.xsAdvance, hrefill]
      exact h.buffered (Nat.pos_of_ne_zero hempty)

theorem KeystreamBuffered.xsTake {u : XsUnit} (h : KeystreamBuffered u) (len : Nat) :
    KeystreamBuffered (xsTake len u).2 := by
  induction len generalizing u with
  | zero => exact h
  | succ len ih => exact ih h.xsAdvance

/-- A request of a loaded unit that does not overflow keeps its invariant (R154). -/
theorem XsUnitInv.xsTake {ctrLimit len : Nat} {u : XsUnit} (h : XsUnitInv ctrLimit u) (hvalid : u.valid = true)
    (hok : xsOverflow ctrLimit u len = false) : XsUnitInv ctrLimit (xsTake len u).2 := by
  have hbuffered : KeystreamBuffered (Machine.xsTake len u).2 :=
    KeystreamBuffered.xsTake ⟨h.avail_le, h.buffered⟩ len
  obtain ⟨-, -, hkeeps⟩ := xsTake_keeps len u
  exact {
    avail_le := hbuffered.avail_le
    next_le := xsTake_next_le hok h.next_le
    cleared := fun hinvalid => by simp [hkeeps, hvalid] at hinvalid
    buffered := hbuffered.buffered }

theorem polyUnitInv_cleared : PolyUnitInv PolyUnit.cleared where
  acc_lt := by decide
  bufLen_le := Nat.zero_le _
  cleared _ := rfl
  tail_zero i _ := by simp [PolyUnit.cleared, zeros]
  clamped := by decide

/-- `r` of a loaded key is clamped (R171). -/
theorem polyR_clamped (k : List Byte) : polyR k &&& ~~~clamp = 0 := by
  rw [polyR, BitVec.and_assoc, BitVec.and_not_self]
  exact BitVec.and_zero

theorem polyUnitInv_loaded (k : List Byte) : PolyUnitInv (polyLoaded k) where
  acc_lt := by simp only [polyLoaded]; decide
  bufLen_le := Nat.zero_le _
  cleared h := Bool.noConfusion h
  tail_zero i _ := by simp [polyLoaded, zeros]
  clamped := polyR_clamped k

/-- What one byte does to the accumulator unit (R175): it fills the buffer, which is then absorbed, or it is buffered. -/
theorem polyAbsorbByte_cases (u : PolyUnit) (b : Byte) :
    (u.bufLen = 15 ∧ ∃ chunk, polyAbsorbByte u b =
      { u with acc := pBlock u.acc u.r.toNat chunk, buf := zeros 16, bufLen := 0 }) ∨
    (u.bufLen ≠ 15 ∧ polyAbsorbByte u b =
      { u with buf := u.buf.setIfInBounds u.bufLen b, bufLen := u.bufLen + 1 }) := by
  unfold polyAbsorbByte
  split
  next hfull => exact .inl ⟨by omega, _, rfl⟩
  next hroom => exact .inr ⟨by omega, rfl⟩

/-- Neither validity nor the key changes while bytes are absorbed (R175). -/
theorem polyAbsorbByte_keeps (u : PolyUnit) (b : Byte) : (polyAbsorbByte u b).valid = u.valid ∧
    (polyAbsorbByte u b).r = u.r ∧ (polyAbsorbByte u b).s = u.s := by
  obtain ⟨-, chunk, h⟩ | ⟨-, h⟩ := polyAbsorbByte_cases u b <;> simp [h]

/-- Absorbing a byte keeps the invariant of a loaded unit (R175, R178). -/
theorem PolyUnitInv.absorbByte {u : PolyUnit} (h : PolyUnitInv u) (hvalid : u.valid = true) (b : Byte) :
    PolyUnitInv (polyAbsorbByte u b) := by
  obtain ⟨hfull, chunk, heq⟩ | ⟨hroom, heq⟩ := polyAbsorbByte_cases u b
  · rw [heq]
    exact {
      acc_lt := pBlock_lt _ _ _
      bufLen_le := Nat.zero_le _
      cleared := fun hinvalid => by simp [hvalid] at hinvalid
      tail_zero := fun i _ => by simp [zeros]
      clamped := h.clamped }
  · rw [heq]
    have hle := h.bufLen_le
    exact {
      acc_lt := h.acc_lt
      bufLen_le := by show u.bufLen + 1 ≤ 15; omega
      cleared := fun hinvalid => by simp [hvalid] at hinvalid
      tail_zero := fun i hi => by
        have hi : u.bufLen + 1 ≤ i.val := hi
        have hold : u.buf[i.val] = 0 := h.tail_zero i (by omega)
        have hne : u.bufLen ≠ i.val := by omega
        simp [hne, hold]
      clamped := h.clamped }

/-- An update keeps the invariant of a loaded unit (R175). -/
theorem PolyUnitInv.absorb {u : PolyUnit} (h : PolyUnitInv u) (hvalid : u.valid = true) (m : List Byte) :
    PolyUnitInv (polyAbsorb u m) := by
  induction m generalizing u with
  | nil => exact h
  | cons b m ih =>
    obtain ⟨hkeeps, -⟩ := polyAbsorbByte_keeps u b
    exact ih (h.absorbByte hvalid b) (hkeeps.trans hvalid)

/-! ### A command's effect -/

/-- Commands that use a unit find it loaded when their checks pass (R47, R49). -/
theorem xs_valid_of_no_error {i : Instr} {s : State} (h : commandError i s = none) (hi : i = .xsXor ∨ i = .xsKeystream) :
    s.xs.valid = true := by
  have hcause := no_errorCause h .notInitialised
  obtain rfl | rfl := hi <;> simpa [errorCause] using hcause

theorem poly_valid_of_no_error {i : Instr} {s : State} (h : commandError i s = none) (hi : i = .pUpdate ∨ i = .pFinal) :
    s.poly.valid = true := by
  have hcause := no_errorCause h .notInitialised
  obtain rfl | rfl := hi <;> simpa [errorCause] using hcause

/-- A stream command whose checks pass does not overflow (R154). -/
theorem not_xsOverflow_of_no_error {i : Instr} {s : State} (h : commandError i s = none)
    (hi : i = .xsXor ∨ i = .xsKeystream) : xsOverflow s.build.ctrLimit s.xs (s.x 2) = false := by
  have hcause := no_errorCause h .counterOverflow
  rw [← Bool.not_eq_true, xsOverflow_eq_true_iff]
  obtain rfl | rfl := hi <;> exact hcause

/-- The streaming unit after a command that passes its checks (R50). -/
theorem commandEffect_xs_inv {i : Instr} {s : State} (h : commandError i s = none)
    (hinv : XsUnitInv s.build.ctrLimit s.xs) : XsUnitInv s.build.ctrLimit (commandEffect i s).xs := by
  by_cases hstream : i = .xsXor ∨ i = .xsKeystream
  · have htaken := hinv.xsTake (xs_valid_of_no_error h hstream) (not_xsOverflow_of_no_error h hstream)
    obtain rfl | rfl := hstream <;> exact htaken
  obtain ⟨hxor, hks⟩ := not_or.mp hstream
  by_cases hzero : i = .zeroize
  · subst hzero
    exact xsUnitInv_cleared _
  by_cases hinit : ∃ k n, i = .xsInit k n
  · obtain ⟨k, n, rfl⟩ := hinit
    exact xsUnitInv_loaded _ _ _
  rw [commandEffect_xs (fun k n hi => hinit ⟨k, n, hi⟩) hxor hks hzero]
  exact hinv

/-- The accumulator unit after a command that passes its checks (R52). -/
theorem commandEffect_poly_inv {i : Instr} {s : State} (h : commandError i s = none) (hinv : PolyUnitInv s.poly) :
    PolyUnitInv (commandEffect i s).poly := by
  by_cases hupdate : i = .pUpdate
  · have habsorbed := hinv.absorb (poly_valid_of_no_error h (.inl hupdate)) (s.memRead (pMsgIn s))
    subst hupdate
    exact habsorbed
  by_cases hclear : i = .pFinal ∨ i = .zeroize
  · obtain rfl | rfl := hclear <;> exact polyUnitInv_cleared
  obtain ⟨hfinal, hzero⟩ := not_or.mp hclear
  by_cases hinit : ∃ k, i = .pInit k
  · obtain ⟨k, rfl⟩ := hinit
    exact polyUnitInv_loaded _
  rw [commandEffect_poly (fun k hi => hinit ⟨k, hi⟩) hupdate hfinal hzero]
  exact hinv

/-- `RESULT` stays one bit (R38). -/
theorem commandEffect_result_le (i : Instr) {s : State} (hle : s.result.toNat ≤ 1) :
    (commandEffect i s).result.toNat ≤ 1 := by
  by_cases hcmp : i = .ctMemcmp
  · subst hcmp
    obtain h | h := commandEffect_ctMemcmp_result s <;> simp [h]
  by_cases hzero : i = .zeroize
  · subst hzero
    exact Nat.zero_le 1
  rwa [commandEffect_result hcmp hzero]

/-- DMEM is of one size (R71): canonical, and with no byte listed beyond it. -/
structure MemoryInv (size : Nat) (m : Memory) : Prop where
  wf : m.wf
  in_range : ∀ c ∈ m, c.1 < size

/-- Storing strings that end within DMEM keeps its size (R71, R75). -/
theorem MemoryInv.store {size : Nat} {m : Memory} (hm : MemoryInv size m) {outputs : List (Region × List Byte)}
    (hvalid : ∀ o ∈ outputs, o.2.length = o.1.len ∧ (o.1.len = 0 ∨ o.1.addr + o.1.len ≤ size)) :
    MemoryInv size (m.store outputs) := by
  induction outputs generalizing m with
  | nil => exact hm
  | cons o rest ih =>
    obtain ⟨⟨hlen, hfits⟩, hrest⟩ := List.forall_mem_cons.mp hvalid
    refine ih ⟨Memory.wf_writeBytes o.2 m hm.wf o.1.addr, fun c hc => ?_⟩ hrest
    obtain hnew | hold := Memory.mem_writeBytes o.2 m o.1.addr c hc
    · omega
    · exact hm.in_range c hold

/-- DMEM after a command that passes its checks (R71). -/
theorem commandEffect_dmem_inv {i : Instr} {s : State} (h : commandError i s = none)
    (hm : MemoryInv s.build.dmemSize s.dmem) : MemoryInv s.build.dmemSize (commandEffect i s).dmem := by
  rw [commandEffect_dmem]
  refine hm.store fun o ho => ?_
  obtain ⟨hregion, hlen⟩ := mem_commandOutputs ho
  exact ⟨hlen, writeRegions_valid h hregion⟩

/-! ### Resets -/

/-- A cleared state has the invariant when its build is legal and its DMEM is of the build's size (R54). -/
theorem Inv.of_clearAll {u : State} (hbuild : u.build.legal) (hm : MemoryInv u.build.dmemSize u.dmem) :
    Inv u.clearAll where
  build_legal := hbuild
  dmem_wf := hm.wf
  dmem_in_range := hm.in_range
  done_err := by simp
  errCode_zero := by simp
  errCode_le := by simp
  busy_clear := by simp
  result_le := by simp
  xs := xsUnitInv_cleared _
  poly := polyUnitInv_cleared

/-- Settles O57: the reset state is a cleared state with nothing in DMEM. -/
theorem resetMeetsTheInvariant : Obligations.ResetMeetsTheInvariant :=
  Inv.of_clearAll (u := State.reset) (by decide) ⟨⟨.nil, fun _ h => absurd h List.not_mem_nil⟩,
    fun _ h => absurd h List.not_mem_nil⟩

/-- The free bytes of an abort, as strings stored in the aborted command's regions (R268). -/
theorem State.scramble_dmem_eq_store (s : State) (rs : List Region) : (s.scramble rs).dmem =
    s.dmem.store (rs.map fun r => (r, freeBytes s.freeCount r.addr r.len)) := by
  rw [State.scramble_dmem, Memory.store, List.foldl_map]

/-- Only regions within DMEM are in flight (R268). -/
theorem pendingWrites_valid {s : State} {r : Region} (hr : r ∈ pendingWrites s) :
    r.len = 0 ∨ r.addr + r.len ≤ s.build.dmemSize := by
  unfold pendingWrites at hr
  split at hr
  next i _ =>
    split_ifs at hr with hok
    · exact writeRegions_valid (Option.isNone_iff_eq_none.mp hok) hr
    · cases hr
  next => cases hr

theorem State.scramble_dmem_inv {s : State} (hm : MemoryInv s.build.dmemSize s.dmem) :
    MemoryInv s.build.dmemSize (s.scramble (pendingWrites s)).dmem := by
  rw [State.scramble_dmem_eq_store]
  refine hm.store fun o ho => ?_
  obtain ⟨r, hr, rfl⟩ := List.mem_map.mp ho
  exact ⟨length_freeBytes _ _ _, pendingWrites_valid hr⟩

theorem Inv.dmem {s : State} (h : Inv s) : MemoryInv s.build.dmemSize s.dmem := ⟨h.dmem_wf, h.dmem_in_range⟩

theorem Inv.softReset {s : State} (h : Inv s) : Inv s.softReset := by
  obtain ⟨-, heq⟩ | ⟨-, heq⟩ := s.softReset_cases
  · rw [heq]
    exact Inv.of_clearAll h.build_legal (State.scramble_dmem_inv h.dmem)
  · rw [heq]
    exact Inv.of_clearAll h.build_legal h.dmem

theorem Inv.powerOnReset {s : State} (h : Inv s) (contents : List Host.Cell) : Inv (s.powerOnReset contents) := by
  rw [State.powerOnReset_eq_clearAll]
  exact Inv.of_clearAll h.build_legal
    ⟨Memory.wf_ofCells _ contents, fun c hc => Memory.ofCells_in_range _ contents c hc⟩

/-! ### The engine -/

theorem ErrCode.code_ne_zero (e : ErrCode) : e.code ≠ 0 := by cases e <;> decide

theorem ErrCode.code_le (e : ErrCode) : e.code.toNat ≤ 9 := by cases e <;> decide

/-- An error leaves the invariant of a busy state (R35, R238). -/
theorem Inv.raise {s : State} (h : Inv s) (hbusy : s.busy = true) (e : ErrCode) : Inv (s.raise e) where
  build_legal := h.build_legal
  dmem_wf := h.dmem_wf
  dmem_in_range := h.dmem_in_range
  done_err := by simp [(h.busy_clear hbusy).1]
  errCode_zero := by simpa using e.code_ne_zero
  errCode_le := e.code_le
  busy_clear := by simp
  result_le := h.result_le
  xs := h.xs
  poly := h.poly

/-- A completion without error leaves the invariant of a busy state (R35, R240). -/
theorem Inv.finish_commandEffect {i : Instr} {s : State} (h : Inv s) (hbusy : s.busy = true)
    (hok : commandError i s = none) : Inv (commandEffect i s).finish := by
  obtain ⟨-, herr⟩ := h.busy_clear hbusy
  obtain ⟨hwf, hrange⟩ := commandEffect_dmem_inv hok h.dmem
  exact {
    build_legal := by simpa using h.build_legal
    dmem_wf := hwf
    dmem_in_range := by simpa using hrange
    done_err := by simp [herr]
    errCode_zero := by simpa using h.errCode_zero
    errCode_le := by simpa using h.errCode_le
    busy_clear := by simp
    result_le := commandEffect_result_le i h.result_le
    xs := by simpa using commandEffect_xs_inv hok h.xs
    poly := commandEffect_poly_inv hok h.poly }

theorem Inv.engineTurn {s t : State} (h : Inv s) (hturn : engineTurn s = .next t) : Inv t := by
  obtain ⟨-, hidle⟩ | ⟨hbusy, e, -, hillegal⟩ | ⟨hbusy, i, -, hexec⟩ := engineTurn_cases s
  · cases hidle.symm.trans hturn
    exact h
  · cases hillegal.symm.trans hturn
    exact h.raise hbusy _
  · obtain ⟨e, -, rfl⟩ | ⟨hok, rfl⟩ := exec_next (hexec.symm.trans hturn)
    · exact h.raise hbusy e
    · exact h.finish_commandEffect hbusy hok

/-! ### The host -/

/-- The invariant speaks of neither the agenda nor the bus datum (logs 1, 7). -/
theorem Inv.with_bus {s : State} (h : Inv s) (agenda : List Move) (busData : Word) :
    Inv { s with agenda := agenda, busData := busData } := { h with }

/-- Clearing bits of `STATUS` keeps its relations (R35, R36). -/
theorem Inv.clearStatus {s : State} (h : Inv s) (v : Word) : Inv (s.clearStatus v) where
  build_legal := h.build_legal
  dmem_wf := h.dmem_wf
  dmem_in_range := h.dmem_in_range
  done_err := by
    rw [State.clearStatus_done, State.clearStatus_err, Bool.and_eq_true, Bool.and_eq_true]
    exact fun ⟨⟨hdone, _⟩, herr, _⟩ => h.done_err ⟨hdone, herr⟩
  errCode_zero := by
    rw [State.clearStatus_errCode, State.clearStatus_err]
    cases v.getLsbD 2 with
    | true => simp
    | false => simpa using h.errCode_zero
  errCode_le := by
    rw [State.clearStatus_errCode]
    cases v.getLsbD 2 <;> simp [h.errCode_le]
  busy_clear hbusy := by
    obtain ⟨hdone, herr⟩ := h.busy_clear hbusy
    simp [hdone, herr]
  result_le := h.result_le
  xs := h.xs
  poly := h.poly

/-- Issuing clears `DONE`, `ERR` and `ERRCODE` (R236). -/
theorem Inv.issue {s : State} (h : Inv s) (w : Word) : Inv (s.issue w) :=
  { h with
    done_err := by simp
    errCode_zero := by simp
    errCode_le := by simp
    busy_clear := by simp }

theorem Inv.writeCmd {s : State} (h : Inv s) (w : Word) : Inv (s.writeCmd w) := by
  obtain ⟨-, heq⟩ | ⟨-, heq⟩ := s.writeCmd_cases w
  · rw [heq]
    exact { h with }
  · rw [heq]
    exact h.issue w

theorem Inv.writeCtrl {s : State} (h : Inv s) (v : Word) : Inv (s.writeCtrl v) := by
  obtain ⟨-, heq⟩ | ⟨-, heq⟩ := s.writeCtrl_cases v
  · rw [heq]
    exact h.softReset
  · rw [heq]
    exact { h with }

theorem Inv.writeRegister {s : State} (h : Inv s) (offset : Nat) (v : Word) : Inv (s.writeRegister offset v) := by
  obtain ⟨i, -, heq⟩ | ⟨-, heq⟩ | ⟨-, heq⟩ | ⟨-, heq⟩ | heq := s.writeRegister_cases offset v
  · rw [heq]
    exact { h with }
  · rw [heq]
    exact h.writeCtrl v
  · rw [heq]
    exact h.clearStatus v
  · rw [heq]
    exact h.writeCmd v
  · rwa [heq]

/-- A window write that is served lies within DMEM (R73). -/
theorem Inv.writeWindow {s : State} (h : Inv s) {a : Nat} {v : List Byte}
    (hserved : windowServes s.build a v.length = true) : Inv { s with dmem := s.dmem.writeBytes a v } := by
  simp only [windowServes, decide_eq_true_eq] at hserved
  have hdmem : MemoryInv s.build.dmemSize (s.dmem.store [(⟨a, v.length⟩, v)]) :=
    h.dmem.store (by simpa using .inr hserved.2)
  exact { h with dmem_wf := hdmem.wf, dmem_in_range := hdmem.in_range }

/-! ### Every step -/

/-- Settles O58: the cases of a step, each by its own lemma. -/
theorem everyStepKeepsTheInvariant : Obligations.EveryStepKeepsTheInvariant := by
  intro s t hinv hstep
  have hrest (rest : List Move) : Inv { s with agenda := rest } := hinv.with_bus rest s.busData
  cases step_cases hstep with
  | engine _ hturn => exact (hrest _).engineTurn hturn
  | read => exact hinv.with_bus _ _
  | register => exact (hrest _).writeRegister _ _
  | window _ _ _ hserved => exact (hinv.writeWindow hserved).with_bus _ _
  | ignored => exact hrest _
  | powerOn => exact (hrest _).powerOnReset _

/-- The engine's turn always answers a next state (R230). -/
theorem exists_engineTurn_next (s : State) : ∃ t, engineTurn s = .next t := by
  obtain ⟨-, hidle⟩ | ⟨-, e, -, hillegal⟩ | ⟨-, i, -, hexec⟩ := engineTurn_cases s
  · exact ⟨_, hidle⟩
  · exact ⟨_, hillegal⟩
  · obtain ⟨t, ht, -⟩ := everyCommandCompletes i s
    exact ⟨t, hexec.trans ht⟩

/-- A busy engine's turn ends with `BUSY` clear and one of `DONE` and `ERR` set (R240). -/
theorem engineTurn_completes {s t : State} (hbusy : s.busy = true) (hturn : engineTurn s = .next t) :
    t.busy = false ∧ (t.done = true ∨ t.err = true) := by
  obtain ⟨hidle, -⟩ | ⟨-, e, -, hillegal⟩ | ⟨-, i, -, hexec⟩ := engineTurn_cases s
  · simp [hbusy] at hidle
  · cases hillegal.symm.trans hturn
    simp
  · obtain ⟨e, -, rfl⟩ | ⟨-, rfl⟩ := exec_next (hexec.symm.trans hturn) <;> simp

/-- Settles O10: one of `DONE` and `ERR` is set, and the invariant of the state reached excludes both. -/
theorem busyEngineCompletesInOneStep : Obligations.BusyEngineCompletesInOneStep := by
  intro s hinv hbusy hagenda
  obtain ⟨t, hturn⟩ := exists_engineTurn_next s
  have hstep : step s = .next t := (step_of_nil hagenda).trans hturn
  have ht : Inv t := everyStepKeepsTheInvariant s t hinv hstep
  obtain ⟨hidle, hone⟩ := engineTurn_completes hbusy hturn
  have hnotBoth := ht.done_err
  have hcode := ht.errCode_zero
  refine ⟨t, hstep, hidle, ?_, ?_⟩
  · obtain hdone | herr := hone
    · have herr : t.err = false := Bool.eq_false_iff.mpr fun herr => hnotBoth ⟨hdone, herr⟩
      rw [hdone, herr]
      rfl
    · have hdone : t.done = false := Bool.eq_false_iff.mpr fun hdone => hnotBoth ⟨hdone, herr⟩
      rw [hdone, herr]
      rfl
  · rw [ne_eq, hcode, Bool.not_eq_false]

end Sys2Proof.Machine

/-! The host's side: which moves stop the machine, the register map, the DMEM window, the resets, and the events that change
`RESULT` and `XS_NEXT`. -/

namespace Sys2Proof.Machine

/-! ### Faults and the address map -/

/-- The window is the block's bytes from `0x10000` on (R70). -/
theorem busTarget_eq_window_iff (b : Config.Build) (addr a : Nat) :
    busTarget b addr = .window a ↔ addr = b.blockBase + 0x10000 + a ∧ a < 2 ^ 24 := by
  unfold busTarget Config.dmemWindow Config.decodedSize
  split_ifs <;> simp <;> omega

/-- The addresses the block does not decode (R70). -/
theorem busTarget_eq_outside_iff (b : Config.Build) (addr : Nat) :
    busTarget b addr = .outside ↔ addr < b.blockBase ∨ b.blockBase + 0x01010000 ≤ addr := by
  unfold busTarget Config.dmemWindow Config.decodedSize
  split_ifs <;> simp <;> omega

/-- What a host access at an address faults with (R270; log 6). -/
def HostFault (s : State) (addr : Nat) (f : Fault) : Prop :=
  (f = .hostHazard ∧ s.busy = true ∧ s.build.blockBase + 0x10000 ≤ addr ∧ addr < s.build.blockBase + 0x01010000) ∨
  (f = .addressNotDecoded ∧ (addr < s.build.blockBase ∨ s.build.blockBase + 0x01010000 ≤ addr))

theorem busFault_eq_some_iff (s : State) (t : BusTarget) (f : Fault) : busFault s t = some f ↔
    (f = .hostHazard ∧ s.busy = true ∧ ∃ a, t = .window a) ∨ (f = .addressNotDecoded ∧ t = .outside) := by
  cases t <;> cases h : s.busy <;> simp [busFault, h, @eq_comm _ f]

/-- A bus access faults exactly so (R70, R270). -/
theorem busFault_busTarget_eq_some_iff (s : State) (addr : Nat) (f : Fault) :
    busFault s (busTarget s.build addr) = some f ↔ HostFault s addr f := by
  have hwindow : (∃ a, busTarget s.build addr = .window a) ↔
      s.build.blockBase + 0x10000 ≤ addr ∧ addr < s.build.blockBase + 0x01010000 := by
    simp only [busTarget_eq_window_iff]
    exact ⟨fun ⟨a, h⟩ => by omega, fun h => ⟨addr - (s.build.blockBase + 0x10000), by omega⟩⟩
  rw [busFault_eq_some_iff, hwindow, busTarget_eq_outside_iff]
  rfl

theorem hostRead_eq_fault_iff (s : State) (addr : Nat) (w : Width) (f : Fault) :
    hostRead s addr w = .fault f ↔ HostFault s addr f := by
  rw [← busFault_busTarget_eq_some_iff, hostRead]
  cases busFault s (busTarget s.build addr) <;> simp

theorem hostWrite_eq_fault_iff (s : State) (addr : Nat) (d : Datum) (f : Fault) :
    hostWrite s addr d = .fault f ↔ HostFault s addr f := by
  rw [← busFault_busTarget_eq_some_iff, hostWrite]
  cases busFault s (busTarget s.build addr) <;> simp

theorem hostRead_ne_refused (s : State) (addr : Nat) (w : Width) (r : Refusal) : hostRead s addr w ≠ .refused r := by
  unfold hostRead
  split <;> simp

theorem hostWrite_ne_refused (s : State) (addr : Nat) (d : Datum) (r : Refusal) : hostWrite s addr d ≠ .refused r := by
  unfold hostWrite
  split <;> simp

/-- Settles O8: only the host's two moves meet the bus, and the engine and the reset input always answer a next state. -/
theorem stepFaultsOnlyOnHostAccesses : Obligations.StepFaultsOnlyOnHostAccesses := by
  intro s
  cases hagenda : s.agenda with
  | nil =>
    obtain ⟨t, hturn⟩ := exists_engineTurn_next s
    rw [step_of_nil hagenda, hturn]
    simp
  | cons m rest =>
    rw [step_of_cons hagenda]
    cases m with
    | read addr w =>
      refine ⟨hostRead_ne_refused _ addr w, fun f => (hostRead_eq_fault_iff _ addr w f).trans ?_⟩
      simp [HostFault]
    | write addr d =>
      refine ⟨hostWrite_ne_refused _ addr d, fun f => (hostWrite_eq_fault_iff _ addr d f).trans ?_⟩
      simp [HostFault]
    | powerOn contents => simp [moveTurn]
    | engine =>
      obtain ⟨t, hturn⟩ := exists_engineTurn_next { s with agenda := rest }
      simp [moveTurn, hturn]

/-! ### The register map -/

section StatusFields

open BitVec

/-- A bit is the slice of length 1 at its place. -/
theorem getLsbD_of_extractLsb' {w place : Nat} {v : BitVec w} {b : Bool} (h : v.extractLsb' place 1 = ofBool b) :
    v.getLsbD place = b := by
  have hbit := congrArg (·.getLsbD 0) h
  simpa using hbit

/-- Settles O46: `STATUS` is its ten fields joined, and each is found below those above it. -/
theorem statusWordHasItsFields : Obligations.StatusWordHasItsFields := by
  intro s
  refine ⟨s.statusWord_busy, getLsbD_of_extractLsb' ?done, getLsbD_of_extractLsb' ?err, getLsbD_of_extractLsb' ?cmdLost,
    ?reservedLow, ?errCode, getLsbD_of_extractLsb' ?xsValid, getLsbD_of_extractLsb' ?polyValid,
    getLsbD_of_extractLsb' ?xsEnd, extractLsb'_append_eq_left⟩
  case xsEnd =>
    refine (extractLsb'_append_eq_of_add_le (by decide)).trans ?_
    exact extractLsb'_append_eq_left
  case polyValid =>
    iterate 2 refine (extractLsb'_append_eq_of_add_le (by decide)).trans ?_
    exact extractLsb'_append_eq_left
  case xsValid =>
    iterate 3 refine (extractLsb'_append_eq_of_add_le (by decide)).trans ?_
    exact extractLsb'_append_eq_left
  case errCode =>
    iterate 4 refine (extractLsb'_append_eq_of_add_le (by decide)).trans ?_
    exact extractLsb'_append_eq_left
  case reservedLow =>
    iterate 5 refine (extractLsb'_append_eq_of_add_le (by decide)).trans ?_
    exact extractLsb'_append_eq_left
  case cmdLost =>
    iterate 6 refine (extractLsb'_append_eq_of_add_le (by decide)).trans ?_
    exact extractLsb'_append_eq_left
  case err =>
    iterate 7 refine (extractLsb'_append_eq_of_add_le (by decide)).trans ?_
    exact extractLsb'_append_eq_left
  case done =>
    iterate 8 refine (extractLsb'_append_eq_of_add_le (by decide)).trans ?_
    exact extractLsb'_append_eq_left

end StatusFields

theorem argIndex_eq_none_iff (offset : Nat) : argIndex offset = none ↔ offset < 0x010 ∨ 0x030 ≤ offset := by
  unfold argIndex
  split_ifs <;> simp <;> omega

/-- `CTRL` reads back `IRQ_EN` in bit 1 (R34). -/
theorem State.ctrlWord_eq (s : State) : s.ctrlWord = if s.irqEn = true then 2 else 0 := by
  cases h : s.irqEn <;> simp [State.ctrlWord, h]

/-- Reserved offsets read 0 (R43). -/
theorem State.readRegister_reserved (s : State) {offset : Nat} (h : 0x048 ≤ offset) : s.readRegister offset = 0 := by
  unfold State.readRegister
  rw [(argIndex_eq_none_iff offset).mpr (by omega)]
  dsimp only
  split
  case h_11 => rfl
  all_goals omega

/-- Offsets that are no writable register ignore a write (R33, R38-R43). -/
theorem State.writeRegister_readOnly (s : State) {offset : Nat} (v : Word) (h : offset = 0x000 ∨ 0x030 ≤ offset) :
    s.writeRegister offset v = s := by
  obtain ⟨i, hi, -⟩ | ⟨hoff, -⟩ | ⟨hoff, -⟩ | ⟨hoff, -⟩ | heq := s.writeRegister_cases offset v
  · have hnone := (argIndex_eq_none_iff offset).mpr (by omega)
    simp [hi] at hnone
  · omega
  · omega
  · omega
  · exact heq

/-- The registers that read as the state has them, each at its offset (R33-R43). -/
def registerMap (s : State) : List (Nat × Word) :=
  [(0x000, 0x58530100), (0x004, if s.irqEn = true then 2 else 0), (0x008, s.statusWord), (0x00C, s.pendCmd),
    (0x030, s.result), (0x034, BitVec.ofNat 32 s.xs.next), (0x038, BitVec.ofNat 32 (s.xs.next >>> 32)),
    (0x03C, BitVec.ofNat 32 s.xs.avail), (0x040, BitVec.ofNat 32 s.poly.bufLen),
    (0x044, BitVec.ofNat 32 s.build.dmemSize)]

/-- What a read of the map's offsets returns (R33-R43). -/
theorem State.readRegister_of_mem {s : State} {offset : Nat} {v : Word} (h : (offset, v) ∈ registerMap s) :
    s.readRegister offset = v ∧ offset < 0x100 := by
  have hhigh : s.xs.next >>> 32 = s.xs.next / 2 ^ 32 := Nat.shiftRight_eq_div_pow _ _
  have hmap : ∀ p ∈ registerMap s, s.readRegister p.1 = p.2 ∧ p.1 < 0x100 := by
    simp only [registerMap, List.forall_mem_cons, List.not_mem_nil, false_implies, implies_true, and_true, hhigh,
      ← s.ctrlWord_eq]
    exact ⟨⟨rfl, by decide⟩, ⟨rfl, by decide⟩, ⟨rfl, by decide⟩, ⟨rfl, by decide⟩, ⟨rfl, by decide⟩, ⟨rfl, by decide⟩,
      ⟨rfl, by decide⟩, ⟨rfl, by decide⟩, ⟨rfl, by decide⟩, ⟨rfl, by decide⟩⟩
  exact hmap _ h

/-- Settles O47: reads by the map, and writes by the registers that take them. -/
theorem registersAreMapped : Obligations.RegistersAreMapped := by
  intro s offset v rest
  refine ⟨fun hread haligned hvalue => ?read, fun hwrite hoffset => ?ignored, fun hwrite hbit => ?ctrl⟩
  case read =>
    obtain ⟨hregister, haperture⟩ : ({ s with agenda := rest } : State).readRegister offset = v ∧ offset < 0x100 := by
      obtain hmapped | ⟨hlow, hhigh, rfl⟩ := hvalue
      · exact State.readRegister_of_mem (s := { s with agenda := rest }) hmapped
      · exact ⟨State.readRegister_reserved _ hlow, by omega⟩
    rw [step_of_hostReads hread haperture haligned, hregister]
  case ignored =>
    have haperture : offset < 0x100 := by omega
    rw [step_of_write_register hwrite haperture]
    by_cases haligned : offset % 4 = 0
    · have hregister := ({ s with agenda := rest } : State).writeRegister_readOnly v
        (show offset = 0x000 ∨ 0x030 ≤ offset by omega)
      simp only [State.writeDatum, if_pos haligned, hregister]
    · rw [State.writeDatum_register_other _ (.inr haligned)]
  case ctrl =>
    rw [step_of_hostWrites hwrite (by decide) (by decide)]
    exact congrArg Host.Outcome.next (if_neg (Bool.eq_false_iff.mp hbit))

/-! ### The DMEM window -/

/-- A host access in the window is served or ignored while idle, and faults while busy (R73, R270). -/
theorem hostRead_window {s : State} {a : Nat} (ha : a < 2 ^ 24) (w : Width) :
    hostRead s (s.build.blockBase + 0x10000 + a) w =
      if s.busy = true then .fault .hostHazard else .next { s with busData := s.readDatum (.window a) w } := by
  have htarget := (busTarget_eq_window_iff s.build _ a).mpr ⟨rfl, ha⟩
  cases hbusy : s.busy <;> simp [hostRead, htarget, busFault, hbusy]

theorem hostWrite_window {s : State} {a : Nat} (ha : a < 2 ^ 24) (d : Datum) :
    hostWrite s (s.build.blockBase + 0x10000 + a) d =
      if s.busy = true then .fault .hostHazard else .next (s.writeDatum (.window a) d) := by
  have htarget := (busTarget_eq_window_iff s.build _ a).mpr ⟨rfl, ha⟩
  cases hbusy : s.busy <;> simp [hostWrite, htarget, busFault, hbusy]

theorem State.readDatum_window (s : State) (a : Nat) (w : Width) : s.readDatum (.window a) w =
    if a % w.bytes = 0 ∧ a + w.bytes ≤ s.build.dmemSize
      then BitVec.ofNat 32 (le (s.dmem.readBytes a w.bytes)) else 0 := by
  simp [State.readDatum, windowServes]

theorem State.writeDatum_window (s : State) (a : Nat) (d : Datum) : s.writeDatum (.window a) d =
    if a % d.toBytes.length = 0 ∧ a + d.toBytes.length ≤ s.build.dmemSize
      then { s with dmem := s.dmem.writeBytes a d.toBytes } else s := by
  simp [State.writeDatum, windowServes]

/-- Settles O50: the window's address selects the target, and DMEM's laws give the bytes. -/
theorem windowAccessesReadAndWriteDmem : Obligations.WindowAccessesReadAndWriteDmem := by
  intro s a rest ha
  refine ⟨fun w hread => ?read, fun d hwrite => ⟨fun hbusy => ?hazard, fun hidle => ?served⟩⟩
  case read =>
    have hmove := hostRead_window (s := { s with agenda := rest }) ha w
    rw [State.readDatum_window] at hmove
    exact (step_of_cons hread).trans hmove
  case hazard =>
    have hmove := hostWrite_window (s := { s with agenda := rest }) ha d
    rw [if_pos hbusy] at hmove
    exact (step_of_cons hwrite).trans hmove
  case served =>
    have hmove := hostWrite_window (s := { s with agenda := rest }) ha d
    rw [if_neg (by simp [hidle]), State.writeDatum_window] at hmove
    refine ⟨_, (step_of_cons hwrite).trans hmove, ?_⟩
    by_cases hok : a % d.toBytes.length = 0 ∧ a + d.toBytes.length ≤ s.build.dmemSize
    · rw [if_pos hok, if_pos hok]
      exact ⟨rfl, fun hwf => Memory.readBytes_writeBytes d.toBytes s.dmem hwf a _ rfl,
        fun x hx => Memory.read_writeBytes_outside d.toBytes s.dmem a x hx⟩
    · rw [if_neg hok, if_neg hok]
      exact ⟨rfl, rfl⟩

/-! ### Resets -/

theorem pendingWrites_with_agenda (s : State) (rest : List Move) :
    pendingWrites { s with agenda := rest } = pendingWrites s := by
  unfold pendingWrites
  cases decode s.pendCmd with
  | error e => rfl
  | ok i => cases i <;> rfl

theorem pendingWrites_of_illegal {s : State} {e : Illegal} (h : decode s.pendCmd = .error e) : pendingWrites s = [] := by
  simp [pendingWrites, h]

theorem pendingWrites_of_error {s : State} {i : Instr} {e : ErrCode} (hdecode : decode s.pendCmd = .ok i)
    (h : commandError i s = some e) : pendingWrites s = [] := by
  simp [pendingWrites, hdecode, h]

/-- An aborted command's regions in flight are among its output regions (R268). -/
theorem mem_writeRegions_of_pending {s : State} {i : Instr} (hdecode : decode s.pendCmd = .ok i) {r : Region}
    (hr : r ∈ pendingWrites s) : r ∈ writeRegions i s := by
  simp only [pendingWrites, hdecode] at hr
  split_ifs at hr
  · exact hr
  · cases hr

/-- A soft reset clears the state and changes DMEM only by the free bytes of an abort (R267, R268). -/
theorem State.softReset_eq (s : State) :
    ∃ u : State, s.softReset = u.clearAll ∧ u.build = s.build ∧ u.agenda = s.agenda ∧ u.busData = s.busData ∧
      u.dmem = s.dmem.store (if s.busy = true then
        (pendingWrites s).map fun r => (r, freeBytes s.freeCount r.addr r.len) else []) := by
  obtain ⟨hbusy, heq⟩ | ⟨hidle, heq⟩ := s.softReset_cases
  · exact ⟨_, heq, rfl, rfl, rfl, by rw [if_pos hbusy, State.scramble_dmem_eq_store]⟩
  · exact ⟨s, heq, rfl, rfl, rfl, by simp [hidle]⟩

/-- Settles O52: the free bytes stored are those of the regions in flight, of which an idle block has none. -/
theorem softResetClearsAllButDmem : Obligations.SoftResetClearsAllButDmem := by
  intro s v rest hwrite hbit
  have hstep : step s = .next ({ s with agenda := rest } : State).softReset :=
    (step_of_hostWrites hwrite (by decide) (by decide)).trans (congrArg Host.Outcome.next (if_pos hbit))
  obtain ⟨u, heq, hbuild, hagenda, hbus, hdmem⟩ := ({ s with agenda := rest } : State).softReset_eq
  rw [pendingWrites_with_agenda] at hdmem
  have hkept (h : pendingWrites s = []) : u.clearAll.dmem = s.dmem := by simpa [h] using hdmem
  refine ⟨u.clearAll, hstep.trans (congrArg _ heq), ?_, fun hidle => ?_, fun e hillegal => ?_, fun i e hok herror => ?_,
    fun i a hok ha => ?_, fun hwf => ?_⟩
  · simp only [State.clearAll, hbuild, hagenda, hbus]
  · simpa [hidle] using hdmem
  · exact hkept (pendingWrites_of_illegal hillegal)
  · exact hkept (pendingWrites_of_error hok herror)
  · rw [State.clearAll_dmem, hdmem]
    refine Memory.read_store_outside _ _ _ fun o ho => ?_
    split_ifs at ho
    · obtain ⟨r, hr, rfl⟩ := List.mem_map.mp ho
      exact ⟨length_freeBytes _ _ _, ha r (mem_writeRegions_of_pending hok hr)⟩
    · cases ho
  · rw [State.clearAll_dmem, hdmem]
    exact Memory.wf_store _ hwf

/-- Writing above every listed address lists the byte last. -/
theorem Memory.write_eq_append {m : Memory} {a : Nat} {v : Byte} (hm : ∀ c ∈ m, c.1 < a) (hv : v ≠ Memory.unlisted) :
    m.write a v = m ++ [(a, v)] := by
  induction m with
  | nil => exact if_neg hv
  | cons c m ih =>
    obtain ⟨k, b⟩ := c
    obtain ⟨hk, hrest⟩ := List.forall_mem_cons.mp hm
    have hk : k < a := hk
    rw [Memory.write, if_neg (by omega), if_neg (by omega), ih hrest, List.cons_append]

/-- Cells written after those below them are listed after them. -/
theorem Memory.foldl_write_eq_append {size : Nat} {listed rest : Memory} (hwf : Memory.wf (listed ++ rest))
    (hrange : ∀ c ∈ rest, c.1 < size) :
    rest.foldl (fun m c => if c.1 < size then m.write c.1 c.2 else m) listed = listed ++ rest := by
  induction rest generalizing listed with
  | nil => exact (List.append_nil listed).symm
  | cons c rest ih =>
    obtain ⟨hc, hrest⟩ := List.forall_mem_cons.mp hrange
    have hassoc : listed ++ c :: rest = listed ++ [c] ++ rest := by simp
    obtain ⟨hrising, hbytes⟩ := id hwf
    obtain ⟨-, -, hacross⟩ := List.pairwise_append.mp hrising
    have hbelow : ∀ d ∈ listed, d.1 < c.1 := fun d hd => hacross d hd c List.mem_cons_self
    rw [List.foldl_cons, if_pos hc, Memory.write_eq_append hbelow (hbytes c (by simp)), hassoc]
    exact ih (hassoc ▸ hwf) hrest

/-- Canonical contents within a memory are that memory's (log 14 plays no part). -/
theorem Memory.ofCells_of_wf {size : Nat} {contents : Memory} (hwf : contents.wf)
    (hrange : ∀ c ∈ contents, c.1 < size) : Memory.ofCells size contents = contents :=
  Memory.foldl_write_eq_append (listed := []) hwf hrange

/-- Settles O53: the reset clears all but DMEM, and the contents given are DMEM's. -/
theorem powerOnResetClearsAll : Obligations.PowerOnResetClearsAll := by
  intro s contents rest hwf hrange hagenda
  rw [step_of_cons hagenda]
  simp only [moveTurn, State.powerOnReset, State.clearAll, Memory.ofCells_of_wf hwf hrange]

/-! ### The events that change `RESULT` and `XS_NEXT` -/

/-- The engine's turn keeps `RESULT` and the streaming unit, or it is the effect of a command that passes its checks. -/
theorem engineTurn_keeps_or_effect {s t : State} (hturn : engineTurn s = .next t) :
    (t.result = s.result ∧ t.xs = s.xs) ∨
    (s.busy = true ∧ ∃ i, decode s.pendCmd = .ok i ∧ commandError i s = none ∧ t = (commandEffect i s).finish) := by
  obtain ⟨-, hidle⟩ | ⟨-, e, -, hillegal⟩ | ⟨hbusy, i, hdecode, hexec⟩ := engineTurn_cases s
  · cases hidle.symm.trans hturn
    exact .inl ⟨rfl, rfl⟩
  · cases hillegal.symm.trans hturn
    exact .inl ⟨rfl, rfl⟩
  · obtain ⟨e, -, rfl⟩ | ⟨hok, heq⟩ := exec_next (hexec.symm.trans hturn)
    · exact .inl ⟨rfl, rfl⟩
    · exact .inr ⟨hbusy, i, hdecode, hok, heq⟩

/-- A register write keeps `RESULT` and the streaming unit, or it is a soft reset (R267). -/
theorem State.writeRegister_keeps_or_softReset (s : State) (offset : Nat) (v : Word) :
    ((s.writeRegister offset v).result = s.result ∧ (s.writeRegister offset v).xs = s.xs) ∨
    (offset = 0x004 ∧ v.getLsbD 0 = true ∧ s.writeRegister offset v = s.softReset) := by
  obtain ⟨i, -, heq⟩ | ⟨hctrl, heq⟩ | ⟨-, heq⟩ | ⟨-, heq⟩ | heq := s.writeRegister_cases offset v
  · simp [heq]
  · obtain ⟨hbit, hreset⟩ | ⟨-, hstore⟩ := s.writeCtrl_cases v
    · exact .inr ⟨hctrl, hbit, heq.trans hreset⟩
    · simp [heq, hstore]
  · simp [heq]
  · obtain ⟨-, hcmd⟩ | ⟨-, hcmd⟩ := s.writeCmd_cases v <;> simp [heq, hcmd]
  · simp [heq]

@[simp] theorem State.softReset_result (s : State) : s.softReset.result = 0 := by
  obtain ⟨u, heq, -⟩ := s.softReset_eq
  rw [heq, State.clearAll_result]

@[simp] theorem State.softReset_xs (s : State) : s.softReset.xs = XsUnit.cleared := by
  obtain ⟨u, heq, -⟩ := s.softReset_eq
  rw [heq, State.clearAll_xs]

/-- A step keeps `RESULT` and the streaming unit, or it is the effect of a command that passes its checks, or a reset. -/
theorem step_keeps_or_event {s t : State} (hstep : step s = .next t) :
    (t.result = s.result ∧ t.xs = s.xs) ∨
    (s.busy = true ∧ (s.agenda = [] ∨ ∃ rest, s.agenda = .engine :: rest) ∧ ∃ i, decode s.pendCmd = .ok i ∧
      commandError i s = none ∧ t = (commandEffect i { s with agenda := s.agenda.tail }).finish) ∨
    (t.result = 0 ∧ t.xs = XsUnit.cleared ∧
      ∃ rest, (∃ v, s.hostWrites 0x004 v rest ∧ v.getLsbD 0 = true) ∨ (∃ c, s.agenda = .powerOn c :: rest)) := by
  cases step_cases hstep with
  | engine hagenda hturn =>
    refine (engineTurn_keeps_or_effect hturn).imp id fun ⟨hbusy, i, hdecode, hok, heq⟩ => .inl ?_
    exact ⟨hbusy, hagenda, i, hdecode, (commandError_congr i rfl rfl rfl rfl rfl).symm.trans hok, heq⟩
  | read | window | ignored => exact .inl ⟨rfl, rfl⟩
  | @register offset v rest hwrite =>
    obtain hkeeps | ⟨rfl, hbit, heq⟩ := ({ s with agenda := rest } : State).writeRegister_keeps_or_softReset offset v
    · exact .inl hkeeps
    · rw [heq]
      exact .inr (.inr ⟨State.softReset_result _, State.softReset_xs _, rest, .inl ⟨v, hwrite, hbit⟩⟩)
  | powerOn hagenda => exact .inr (.inr ⟨rfl, rfl, _, .inr ⟨_, hagenda⟩⟩)

/-- Settles O55: of the commands, only `CT.MEMCMP` and `ZEROIZE` write `RESULT`. -/
theorem resultChangesOnlyAtItsEvents : Obligations.ResultChangesOnlyAtItsEvents := by
  intro s t hstep hne
  obtain ⟨hkeeps, -⟩ | ⟨hbusy, hagenda, i, hdecode, hok, rfl⟩ | ⟨hzero, -, hreset⟩ := step_keeps_or_event hstep
  · exact absurd hkeeps hne
  · refine .inl ⟨hbusy, hagenda, ?_⟩
    by_cases hcmp : i = .ctMemcmp
    · subst hcmp
      exact .inl ⟨hdecode, hok, commandEffect_ctMemcmp_result _⟩
    by_cases hclear : i = .zeroize
    · subst hclear
      exact .inr ⟨hdecode, rfl⟩
    exact absurd (commandEffect_result hcmp hclear _) hne
  · exact .inr ⟨hzero, hreset⟩

/-- Settles O56: of the commands, the stream commands advance the counter by `need(L)`, and two more write it. -/
theorem streamCounterChangesOnlyAtItsEvents : Obligations.StreamCounterChangesOnlyAtItsEvents := by
  intro s t hstep hne
  obtain ⟨-, hkeeps⟩ | ⟨hbusy, hagenda, i, hdecode, -, rfl⟩ | ⟨-, hcleared, hreset⟩ := step_keeps_or_event hstep
  · exact absurd (congrArg XsUnit.next hkeeps) hne
  · refine .inl ⟨hbusy, hagenda, ?_⟩
    by_cases hstream : i = .xsXor ∨ i = .xsKeystream
    · refine .inl ⟨hstream.imp (fun h => by rw [hdecode, h]) (fun h => by rw [hdecode, h]), ?_⟩
      obtain rfl | rfl := hstream <;> exact xsTake_next _ _
    obtain ⟨hxor, hks⟩ := not_or.mp hstream
    by_cases hinit : ∃ k n, i = .xsInit k n
    · obtain ⟨k, n, rfl⟩ := hinit
      exact .inr ⟨rfl, .inl ⟨k, n, hdecode⟩⟩
    by_cases hclear : i = .zeroize
    · subst hclear
      exact .inr ⟨rfl, .inr hdecode⟩
    have hkeeps := commandEffect_xs (fun k n hi => hinit ⟨k, n, hi⟩) hxor hks hclear { s with agenda := s.agenda.tail }
    exact absurd (congrArg XsUnit.next hkeeps) hne
  · exact .inr ⟨by rw [hcleared]; rfl, hreset⟩

end Sys2Proof.Machine

/-! What commands and host moves depend on: the input regions, the listed arguments, and nothing hidden. -/

namespace Sys2Proof.Machine

/-! ### Input regions -/

/-- Memories that agree on a region give the same string there (R78). -/
theorem State.memRead_with_dmem {s : State} {m : Memory} {r : Region}
    (h : ∀ a, r.covers a = true → m.read a = s.dmem.read a) : ({ s with dmem := m } : State).memRead r = s.memRead r :=
  Memory.readBytes_congr m s.dmem r.addr r.len fun x hlow hhigh => h x (by simp [Region.covers, hlow, hhigh])

section OtherMemory

variable {i : Instr} {s : State} {m : Memory}
  (hin : ∀ r ∈ readRegions i s, ({ s with dmem := m } : State).memRead r = s.memRead r)
include hin

/-- What `AEAD.DEC` opens comes from its input regions (R110, R193). -/
theorem aeadDecOpened_with_dmem {klen nlen : Nat} (hi : i = .aeadDec klen nlen) :
    aeadDecOpened { s with dmem := m } = aeadDecOpened s := by
  subst hi
  have hkey := hin (aeadKeyIn s) (by simp [readRegions])
  have hnonce := hin (aeadNonceIn s) (by simp [readRegions])
  have hbody := hin (aeadBodyIn s) (by simp [readRegions])
  have htag := hin (decTagIn s) (by simp [readRegions])
  have hargs := congr (congr (congrArg₂ aeadOpen hkey hnonce) hbody) htag
  exact hargs

/-- Of DMEM, the checks look at the input regions only (R232). -/
theorem commandError_with_dmem : commandError i { s with dmem := m } = commandError i s := by
  cases i with
  | aeadDec klen nlen =>
    have hopened := aeadDecOpened_with_dmem hin rfl
    show aeadDecError klen nlen _ = aeadDecError klen nlen s
    rw [aeadDecError_eq_or, aeadDecError_eq_or, hopened]
    rfl
  | _ => rfl

/-- What is stored comes from the input regions (R110). -/
theorem commandOutputs_with_dmem : commandOutputs i { s with dmem := m } = commandOutputs i s := by
  cases i with
  | salsa20CoreStream => exact congrArg (fun v => [(coreOut s, coreStream v)]) (hin (coreIn s) (by simp [readRegions]))
  | salsa20CoreHash => exact congrArg (fun v => [(coreOut s, coreHash v)]) (hin (coreIn s) (by simp [readRegions]))
  | hsalsa20 klen nlen =>
    exact congrArg₂ (fun k h => [(hsOut s, hsalsa20Fn k h)]) (hin (hsKey s) (by simp [readRegions]))
      (hin (hsNonceHead s) (by simp [readRegions]))
  | xsXor =>
    exact congrArg (fun v => [(xsOut s, xorBytes v (xsTake (s.x 2) s.xs).1)]) (hin (xsIn s) (by simp [readRegions]))
  | aeadEnc klen nlen =>
    have hkey := hin (aeadKeyIn s) (by simp [readRegions])
    have hnonce := hin (aeadNonceIn s) (by simp [readRegions])
    have hbody := hin (aeadBodyIn s) (by simp [readRegions])
    have hsealed := congr (congrArg₂ aeadSeal hkey hnonce) hbody
    exact congrArg (fun sealed => [(encBodyOut s, sealed.2), (encTagOut s, sealed.1)]) hsealed
  | aeadDec klen nlen =>
    exact congrArg (fun opened => (Option.map (decBodyOut s, ·) opened).toList) (aeadDecOpened_with_dmem hin rfl)
  | xsInit | xsKeystream | pInit | pUpdate | pFinal | ctMemcmp | zeroize => rfl

/-- What a command computes comes from the input regions (R110). -/
theorem commandEffect_with_dmem : commandEffect i { s with dmem := m } =
    { commandEffect i s with dmem := m.store (commandOutputs i s) } := by
  rw [← commandOutputs_with_dmem hin, ← commandEffect_dmem i { s with dmem := m }]
  cases i with
  | xsInit klen nlen =>
    exact congrArg₂ (fun k n => ({ s with dmem := m, xs := xsLoaded k n } : State))
      (hin (xsKeyIn s) (by simp [readRegions])) (hin (xsNonceIn s) (by simp [readRegions]))
  | pInit klen =>
    exact congrArg (fun k => ({ s with dmem := m, poly := polyLoaded k } : State))
      (hin (pKeyIn s) (by simp [readRegions]))
  | pUpdate =>
    exact congrArg (fun v => ({ s with dmem := m, poly := polyAbsorb s.poly v } : State))
      (hin (pMsgIn s) (by simp [readRegions]))
  | ctMemcmp =>
    exact congrArg₂ (fun a b => ({ s with dmem := m, result := if ctEq a b (s.x 2) then 0 else 1 } : State))
      (hin (cmpA s) (by simp [readRegions])) (hin (cmpB s) (by simp [readRegions]))
  | aeadDec klen nlen =>
    unfold commandEffect
    rw [aeadDecOpened_with_dmem hin rfl]
    cases aeadDecOpened s <;> rfl
  | xsXor | xsKeystream =>
    simp only [commandEffect, State.memWrite]
    rfl
  | _ => simp only [commandEffect, State.memWrite]

end OtherMemory

/-- Storing the same strings over canonical memories: they then agree wherever they did, and on the regions stored to. -/
theorem Memory.read_store_congr (outputs : List (Region × List Byte)) {m m' : Memory} (hm : m.wf) (hm' : m'.wf) {x : Nat}
    (h : m.read x = m'.read x ∨ ∃ o ∈ outputs, o.1.addr ≤ x ∧ x < o.1.addr + o.2.length) :
    (m.store outputs).read x = (m'.store outputs).read x := by
  induction outputs generalizing m m' with
  | nil => simpa using h
  | cons o rest ih =>
    refine ih (Memory.wf_writeBytes _ _ hm _) (Memory.wf_writeBytes _ _ hm' _) ?_
    by_cases hhere : o.1.addr ≤ x ∧ x < o.1.addr + o.2.length
    · obtain ⟨j, rfl⟩ := Nat.exists_eq_add_of_le hhere.1
      have hj : j < o.2.length := by omega
      exact .inl ((Memory.read_writeBytes o.2 m hm _ j hj).trans (Memory.read_writeBytes o.2 m' hm' _ j hj).symm)
    · have hoff : x < o.1.addr ∨ o.1.addr + o.2.length ≤ x := by omega
      rw [Memory.read_writeBytes_outside o.2 m _ x hoff, Memory.read_writeBytes_outside o.2 m' _ x hoff]
      simpa [hhere] using h

/-- Settles O16: the checks, the results and the strings stored come from the input regions. -/
theorem commandsReadOnlyTheirInputRegions : Obligations.CommandsReadOnlyTheirInputRegions := by
  intro i s m hs hm hagree
  have hin : ∀ r ∈ readRegions i s, ({ s with dmem := m } : State).memRead r = s.memRead r :=
    fun r hr => State.memRead_with_dmem (hagree r hr)
  have herror := commandError_with_dmem hin
  refine ⟨herror, ?_⟩
  cases h : commandError i s with
  | some e => exact ⟨_, _, exec_of_error h, exec_of_error (herror.trans h), rfl, by simp⟩
  | none =>
    have heffect := commandEffect_with_dmem hin
    refine ⟨_, _, exec_of_no_error h, exec_of_no_error (herror.trans h), by rw [heffect]; rfl, fun _ r hr => ?_⟩
    obtain ⟨v, hv⟩ := exists_mem_commandOutputs h hr
    have hlen : v.length = r.len := (mem_commandOutputs hv).2
    refine Memory.readBytes_congr _ _ _ _ fun x hlow hhigh => ?_
    rw [State.finish_dmem, State.finish_dmem, heffect, commandEffect_dmem i s]
    exact Memory.read_store_congr _ hm hs (.inr ⟨_, hv, hlow, hlen.symm ▸ hhigh⟩)

/-! ### Listed arguments -/

section OtherArguments

variable {i : Instr} {s : State} {args : Vector Word 8}
  (hlisted : ∀ k ∈ usedArgs i, ({ s with pendArg := args } : State).x k = s.x k)
include hlisted

/-- The checks look at the listed arguments only (R110). -/
theorem commandError_with_pendArg : commandError i { s with pendArg := args } = commandError i s := by
  cases i
  all_goals
    simp only [usedArgs, List.forall_mem_cons, List.not_mem_nil, false_implies, implies_true, and_true] at hlisted
    simp only [commandError, coreError, hsalsa20Error, xsInitError, xsXorError, xsKeystreamError, pInitError, pUpdateError,
      pFinalError, aeadEncError, aeadDecError, aeadDecOperandError, aeadDecOpened, ctMemcmpError, aeadLengthOk, coreIn,
      coreOut, hsKey, hsNonceHead, hsOut, xsKeyIn, xsNonceIn, xsIn, xsOut, pKeyIn, pMsgIn, pTagOut, aeadKeyIn, aeadNonceIn,
      aeadBodyIn, encBodyOut, encTagOut, decTagIn, decBodyOut, cmpA, cmpB, State.fixedRegion, State.lenRegion,
      State.regionsValid, State.memRead, hlisted]

/-- What a command computes comes from the listed arguments (R110). -/
theorem commandEffect_with_pendArg :
    commandEffect i { s with pendArg := args } = { commandEffect i s with pendArg := args } := by
  cases i with
  | ctMemcmp =>
    simp only [usedArgs, List.forall_mem_cons, List.not_mem_nil, false_implies, implies_true, and_true] at hlisted
    simp only [commandEffect, cmpA, cmpB, State.lenRegion, State.memRead, hlisted]
    rfl
  | aeadDec klen nlen =>
    simp only [usedArgs, List.forall_mem_cons, List.not_mem_nil, false_implies, implies_true, and_true] at hlisted
    have hopened : aeadDecOpened { s with pendArg := args } = aeadDecOpened s := by
      simp only [aeadDecOpened, aeadKeyIn, aeadNonceIn, aeadBodyIn, decTagIn, State.fixedRegion, State.lenRegion,
        State.memRead, hlisted]
    have hout : decBodyOut { s with pendArg := args } = decBodyOut s := by
      simp only [decBodyOut, State.lenRegion, hlisted]
    simp only [commandEffect, hopened, hout]
    cases aeadDecOpened s <;> rfl
  | _ =>
    simp only [usedArgs, List.forall_mem_cons, List.not_mem_nil, false_implies, implies_true, and_true] at hlisted
    simp only [commandEffect, aeadEncSealed, coreIn, coreOut, hsKey, hsNonceHead, hsOut, xsKeyIn, xsNonceIn, xsIn, xsOut,
      pKeyIn, pMsgIn, pTagOut, aeadKeyIn, aeadNonceIn, aeadBodyIn, encBodyOut, encTagOut, State.fixedRegion,
      State.lenRegion, State.memRead, State.memWrite, hlisted]

end OtherArguments

/-- Settles O17: an argument that is not listed leaves those that are. -/
theorem commandsIgnoreUnlistedArguments : Obligations.CommandsIgnoreUnlistedArguments := by
  intro i s j v hj
  have hlisted : ∀ k ∈ usedArgs i, ({ s with pendArg := s.pendArg.set j v } : State).x k = s.x k := by
    intro k hk
    have hne : j.val ≠ k.val := fun h => hj (Fin.ext h ▸ hk)
    exact congrArg BitVec.toNat (Vector.getElem_set_ne j.isLt k.isLt hne)
  have herror := commandError_with_pendArg hlisted
  cases h : commandError i s with
  | some e => exact ⟨_, exec_of_error h, exec_of_error (herror.trans h)⟩
  | none =>
    refine ⟨_, exec_of_no_error h, (exec_of_no_error (herror.trans h)).trans ?_⟩
    rw [commandEffect_with_pendArg hlisted]
    rfl

/-! ### Hidden state -/

/-- The streaming unit with its hidden elements blanked (R51); `State.visible_eq` ties it to the state's. -/
def XsUnit.visible (u : XsUnit) : XsUnit := { u with key := zeros 32, nt := zeros 8, buf := zeros 64 }

/-- The accumulator unit with its hidden elements blanked (R51). -/
def PolyUnit.visible (u : PolyUnit) : PolyUnit := { u with r := 0, s := 0, acc := 0, buf := zeros 16 }

theorem State.visible_eq (s : State) : s.visible = { s with xs := s.xs.visible, poly := s.poly.visible } := rfl

/-- Taking a byte moves the counters by the counters alone (R154). -/
theorem xsAdvance_visible (u : XsUnit) : (xsAdvance u.visible).visible = (xsAdvance u).visible := by
  by_cases hempty : u.avail = 0
  · have hrefill := xsRefill_of_avail_zero hempty
    have hrefill' := xsRefill_of_avail_zero (u := u.visible) hempty
    simp only [xsAdvance, hrefill, hrefill']
    rfl
  · have hrefill := xsRefill_of_avail_pos (Nat.pos_of_ne_zero hempty)
    have hrefill' := xsRefill_of_avail_pos (u := u.visible) (Nat.pos_of_ne_zero hempty)
    simp only [xsAdvance, hrefill, hrefill']
    rfl

theorem xsTake_visible (len : Nat) (u : XsUnit) : (xsTake len u.visible).2.visible = (xsTake len u).2.visible := by
  induction len generalizing u with
  | zero => rfl
  | succ len ih =>
    calc (xsTake len (xsAdvance u.visible)).2.visible
      _ = (xsTake len (xsAdvance u.visible).visible).2.visible := (ih _).symm
      _ = (xsTake len (xsAdvance u).visible).2.visible := by rw [xsAdvance_visible]
      _ = (xsTake len (xsAdvance u)).2.visible := ih _

/-- Absorbing a byte moves `P_BUFLEN` by itself alone (R175). -/
theorem polyAbsorbByte_visible (u : PolyUnit) (b : Byte) :
    (polyAbsorbByte u.visible b).visible = (polyAbsorbByte u b).visible := by
  by_cases hfull : u.bufLen + 1 = 16
  · have hfull' : u.visible.bufLen + 1 = 16 := hfull
    rw [polyAbsorbByte, polyAbsorbByte, if_pos hfull, if_pos hfull']
    rfl
  · have hroom : ¬u.visible.bufLen + 1 = 16 := hfull
    rw [polyAbsorbByte, polyAbsorbByte, if_neg hfull, if_neg hroom]
    rfl

theorem polyAbsorb_visible (u : PolyUnit) (m : List Byte) : (polyAbsorb u.visible m).visible = (polyAbsorb u m).visible := by
  induction m generalizing u with
  | nil => rfl
  | cons b m ih =>
    calc (polyAbsorb (polyAbsorbByte u.visible b) m).visible
      _ = (polyAbsorb (polyAbsorbByte u.visible b).visible m).visible := (ih _).symm
      _ = (polyAbsorb (polyAbsorbByte u b).visible m).visible := by rw [polyAbsorbByte_visible]
      _ = (polyAbsorb (polyAbsorbByte u b) m).visible := ih _

/-- No check looks at anything hidden (R51, R232). -/
theorem commandError_visible (i : Instr) (s : State) : commandError i s.visible = commandError i s := by
  cases i <;> rfl

theorem writeRegions_visible (i : Instr) (s : State) : writeRegions i s.visible = writeRegions i s := by
  cases i <;> rfl

/-- Only three commands store anything made from hidden elements (R50). -/
theorem commandOutputs_visible {i : Instr} (hxor : i ≠ .xsXor) (hks : i ≠ .xsKeystream) (hfinal : i ≠ .pFinal)
    (s : State) : commandOutputs i s.visible = commandOutputs i s := by
  cases i with
  | xsXor => exact absurd rfl hxor
  | xsKeystream => exact absurd rfl hks
  | pFinal => exact absurd rfl hfinal
  | _ => rfl

/-- What a host can see of an effect but for DMEM comes from what a host can see (R51). -/
theorem commandEffect_visible_but_dmem (i : Instr) (s : State) (m : Memory) :
    { (commandEffect i s.visible).visible with dmem := m } = { (commandEffect i s).visible with dmem := m } := by
  cases i with
  | xsXor | xsKeystream =>
    exact congrArg (fun u => ({ s.visible with xs := u, dmem := m } : State)) (xsTake_visible (s.x 2) s.xs)
  | pUpdate =>
    exact congrArg (fun u => ({ s.visible with poly := u, dmem := m } : State)) (polyAbsorb_visible s.poly _)
  | aeadDec klen nlen =>
    have hopened : aeadDecOpened s.visible = aeadDecOpened s := rfl
    simp only [commandEffect, hopened]
    cases aeadDecOpened s <;> rfl
  | _ => rfl

/-- What a host can see of a command's answer comes from what a host can see (R50, R51), for commands that store nothing made
from hidden elements. -/
theorem exec_visible {i : Instr} (hxor : i ≠ .xsXor) (hks : i ≠ .xsKeystream) (hfinal : i ≠ .pFinal) (s : State) :
    visibleOutcome (exec i s.visible) = visibleOutcome (exec i s) := by
  cases h : commandError i s with
  | some e =>
    rw [exec_of_error h, exec_of_error ((commandError_visible i s).trans h)]
    rfl
  | none =>
    have hdmem : (commandEffect i s.visible).dmem = (commandEffect i s).dmem := by
      rw [commandEffect_dmem, commandEffect_dmem, commandOutputs_visible hxor hks hfinal]
      rfl
    have heffect : (commandEffect i s.visible).visible = (commandEffect i s).visible :=
      calc (commandEffect i s.visible).visible
        _ = { (commandEffect i s.visible).visible with dmem := (commandEffect i s.visible).dmem } := rfl
        _ = { (commandEffect i s.visible).visible with dmem := (commandEffect i s).dmem } := by rw [hdmem]
        _ = { (commandEffect i s).visible with dmem := (commandEffect i s).dmem } :=
          commandEffect_visible_but_dmem i s _
        _ = (commandEffect i s).visible := rfl
    rw [exec_of_no_error h, exec_of_no_error ((commandError_visible i s).trans h)]
    exact congrArg (fun t => Host.Outcome.next (State.finish t)) heffect

/-- What a host can see of any command's answer, but for DMEM, comes from what a host can see (R50). -/
theorem exec_visible_but_dmem (i : Instr) (s : State) : ∃ s' v, exec i s = .next s' ∧ exec i s.visible = .next v ∧
    { v.visible with dmem := [] } = { s'.visible with dmem := [] } := by
  cases h : commandError i s with
  | some e => exact ⟨_, _, exec_of_error h, exec_of_error ((commandError_visible i s).trans h), rfl⟩
  | none =>
    refine ⟨_, _, exec_of_no_error h, exec_of_no_error ((commandError_visible i s).trans h), ?_⟩
    exact congrArg State.finish (commandEffect_visible_but_dmem i s [])

/-- Settles O60: both states answer as their common visible state does. -/
theorem commandsShowOnlyTheirOutputs : Obligations.CommandsShowOnlyTheirOutputs := by
  intro i s t hvisible
  refine ⟨fun hxor hks hfinal => ?alike, ?outputs⟩
  case alike => rw [← exec_visible hxor hks hfinal s, ← exec_visible hxor hks hfinal t, hvisible]
  case outputs =>
    obtain ⟨s', v, hs, hsv, hs'⟩ := exec_visible_but_dmem i s
    obtain ⟨t', w, ht, htw, ht'⟩ := exec_visible_but_dmem i t
    obtain rfl : v = w := by
      rw [hvisible, htw] at hsv
      injection hsv with hsv
      exact hsv.symm
    refine ⟨s', t', hs, ht, hs'.symm.trans ht', fun a ha => ?_⟩
    have hregions : writeRegions i t = writeRegions i s := by
      rw [← writeRegions_visible i s, hvisible, writeRegions_visible]
    have hdmem : s.dmem = t.dmem := congrArg (a₁ := s.visible) (a₂ := t.visible) State.dmem hvisible
    rw [exec_keeps_outside hs ha, exec_keeps_outside ht (hregions ▸ ha), hdmem]

/-! ### The host's moves -/

/-- Every register reads the visible state (R30, R51). -/
theorem State.readDatum_visible (s : State) (t : BusTarget) (w : Width) : s.visible.readDatum t w = s.readDatum t w := by
  cases t <;> rfl

theorem pendingWrites_visible (s : State) : pendingWrites s.visible = pendingWrites s := by
  unfold pendingWrites
  cases hdecode : decode s.pendCmd with
  | error e =>
    have hdecode' : decode s.visible.pendCmd = .error e := hdecode
    rw [hdecode']
  | ok i =>
    have hdecode' : decode s.visible.pendCmd = .ok i := hdecode
    simp only [hdecode', commandError_visible, writeRegions_visible]

/-- A soft reset leaves nothing hidden, and takes nothing from it (R268). -/
theorem State.softReset_visible (s : State) : s.visible.softReset = s.softReset := by
  unfold State.softReset
  rw [pendingWrites_visible]
  rfl

theorem State.writeCtrl_visible (s : State) (v : Word) : (s.visible.writeCtrl v).visible = (s.writeCtrl v).visible := by
  unfold State.writeCtrl
  rw [State.softReset_visible]
  split <;> rfl

theorem State.writeCmd_visible (s : State) (w : Word) : (s.visible.writeCmd w).visible = (s.writeCmd w).visible := by
  cases hbusy : s.busy with
  | true =>
    have hbusy' : s.visible.busy = true := hbusy
    simp only [State.writeCmd, hbusy, hbusy', if_true]
    rfl
  | false =>
    have hbusy' : s.visible.busy = false := hbusy
    simp only [State.writeCmd, hbusy, hbusy']
    rfl

theorem State.writeRegister_visible (s : State) (offset : Nat) (v : Word) :
    (s.visible.writeRegister offset v).visible = (s.writeRegister offset v).visible := by
  unfold State.writeRegister
  split
  · rfl
  · split
    · exact s.writeCtrl_visible v
    · rfl
    · exact s.writeCmd_visible v
    · rfl

theorem State.writeDatum_visible (s : State) (t : BusTarget) (d : Datum) :
    (s.visible.writeDatum t d).visible = (s.writeDatum t d).visible := by
  unfold State.writeDatum
  split
  next offset v =>
    split
    · exact s.writeRegister_visible offset v
    · rfl
  next a =>
    have hserves : windowServes s.visible.build a d.toBytes.length = windowServes s.build a d.toBytes.length := rfl
    rw [hserves]
    split <;> rfl
  next => rfl

/-- What a host can see of a host move's answer comes from what a host can see (R51). -/
theorem moveTurn_visible {m : Move} (hm : m ≠ .engine) (s : State) :
    visibleOutcome (moveTurn m s.visible) = visibleOutcome (moveTurn m s) := by
  have hfault (addr : Nat) :
      busFault s.visible (busTarget s.visible.build addr) = busFault s (busTarget s.build addr) := rfl
  cases m with
  | engine => exact absurd rfl hm
  | powerOn contents => rfl
  | read addr w =>
    simp only [moveTurn, hostRead, hfault, State.readDatum_visible]
    cases busFault s (busTarget s.build addr) <;> rfl
  | write addr d =>
    simp only [moveTurn, hostWrite, hfault]
    cases busFault s (busTarget s.build addr) with
    | some f => rfl
    | none => exact congrArg Host.Outcome.next (s.writeDatum_visible _ d)

/-- Settles O59: both states answer as their common visible state does. -/
theorem hostMovesShowNothingHidden : Obligations.HostMovesShowNothingHidden := by
  intro m s t hm hvisible
  rw [← moveTurn_visible hm s, ← moveTurn_visible hm t, hvisible]

end Sys2Proof.Machine

/-! The commands one by one: when the checks pass, what is stored, and that nothing else changes. -/

namespace Sys2Proof.Machine

/-! ### One output -/

/-- The finished effect of a command, field by field. -/
theorem finish_commandEffect_eq (i : Instr) (s : State) : (commandEffect i s).finish = { s with
    result := (commandEffect i s).result
    xs := (commandEffect i s).xs
    poly := (commandEffect i s).poly
    dmem := (commandEffect i s).finish.dmem
    done := true
    busy := false } :=
  congrArg State.finish (commandEffect_frame i s)

/-- A command that passes its checks and stores one string: the string stands in its region, and the rest of DMEM as before. -/
theorem exec_of_one_output {i : Instr} {s : State} {r : Region} {v : List Byte} {xs : XsUnit} {poly : PolyUnit}
    (hwf : s.dmem.wf) (hok : commandError i s = none) (hout : commandOutputs i s = [(r, v)])
    (hresult : (commandEffect i s).result = s.result) (hxs : (commandEffect i s).xs = xs)
    (hpoly : (commandEffect i s).poly = poly) :
    ∃ t, exec i s = .next t ∧ t.dmem.readBytes r.addr r.len = v ∧
      (∀ a, a < r.addr ∨ r.addr + r.len ≤ a → t.dmem.read a = s.dmem.read a) ∧
      t = { s with xs := xs, poly := poly, dmem := t.dmem, done := true, busy := false } := by
  have hlen : v.length = r.len := (mem_commandOutputs (hout ▸ List.mem_singleton_self (r, v))).2
  have hdmem : (commandEffect i s).finish.dmem = s.dmem.writeBytes r.addr v := by
    rw [State.finish_dmem, commandEffect_dmem, hout, Memory.store_cons, Memory.store_nil]
  refine ⟨_, exec_of_no_error hok, ?_, fun a ha => ?_, ?_⟩
  · rw [hdmem, Memory.readBytes_writeBytes v s.dmem hwf r.addr r.len hlen]
  · rw [hdmem, Memory.read_writeBytes_outside v s.dmem r.addr a (hlen ▸ ha)]
  · have heq := finish_commandEffect_eq i s
    rwa [hresult, hxs, hpoly] at heq

/-- The same for a command that writes to neither unit. -/
theorem exec_of_only_output {i : Instr} {s : State} {r : Region} {v : List Byte}
    (hunits : (commandEffect i s).result = s.result ∧ (commandEffect i s).xs = s.xs ∧ (commandEffect i s).poly = s.poly)
    (hwf : s.dmem.wf) (hok : commandError i s = none) (hout : commandOutputs i s = [(r, v)]) :
    ∃ t, exec i s = .next t ∧ t.dmem.readBytes r.addr r.len = v ∧
      (∀ a, a < r.addr ∨ r.addr + r.len ≤ a → t.dmem.read a = s.dmem.read a) ∧
      t = { s with dmem := t.dmem, done := true, busy := false } := by
  obtain ⟨hresult, hxs, hpoly⟩ := hunits
  exact exec_of_one_output hwf hok hout hresult hxs hpoly

/-- The commands without state: the core commands, `HSALSA20` and the AEAD commands. -/
def isStateless : Instr → Bool
  | .salsa20CoreStream | .salsa20CoreHash | .hsalsa20 _ _ | .aeadEnc _ _ | .aeadDec _ _ => true
  | _ => false

/-- The commands without state keep `RESULT` and both units (R38, R50, R52). -/
theorem commandEffect_of_isStateless {i : Instr} (hi : isStateless i = true) (s : State) :
    (commandEffect i s).result = s.result ∧ (commandEffect i s).xs = s.xs ∧ (commandEffect i s).poly = s.poly := by
  cases i with
  | salsa20CoreStream | salsa20CoreHash | hsalsa20 | aeadEnc | aeadDec =>
    exact ⟨commandEffect_result (by simp) (by simp) s, commandEffect_xs (by simp) (by simp) (by simp) (by simp) s,
      commandEffect_poly (by simp) (by simp) (by simp) (by simp) s⟩
  | _ => cases hi

/-- A part of a string read is the string read there. -/
theorem slice_readBytes (m : Memory) {a n i j : Nat} (hj : j ≤ n) :
    slice (m.readBytes a n) i j = m.readBytes (a + i) (j - i) := by
  apply List.ext_getElem
  · simp only [length_slice, Memory.length_readBytes]
    omega
  · intro p _ _
    simp only [slice, List.getElem_take, List.getElem_drop, Memory.getElem_readBytes, Nat.add_assoc]

/-! ### The core, HSALSA20 and the streaming unit -/

theorem coreError_eq_none {s : State} (hin : s.x 0 + 64 ≤ s.build.dmemSize) (hout : s.x 1 + 64 ≤ s.build.dmemSize) :
    coreError s = none := by
  simp [coreError, coreIn, coreOut, State.fixedRegion, hin, hout]

/-- Settles O18: the feed-forward adds the words of the input in order. -/
theorem coreStreamWritesTheBlock : Obligations.CoreStreamWritesTheBlock := by
  intro s hwf hin hout
  exact exec_of_only_output (r := coreOut s) (commandEffect_of_isStateless rfl s) hwf (coreError_eq_none hin hout) rfl

/-- Settles O19: the output is the permuted words, with no feed-forward. -/
theorem coreHashWritesTheBlock : Obligations.CoreHashWritesTheBlock := by
  intro s hwf hin hout
  exact exec_of_only_output (r := coreOut s) (commandEffect_of_isStateless rfl s) hwf (coreError_eq_none hin hout) rfl

/-- Settles O20: with both lengths right, only the regions are checked. -/
theorem hsalsaWritesTheSubkey : Obligations.HsalsaWritesTheSubkey := by
  intro s hwf hkey hnonce hout
  have hok : commandError (.hsalsa20 32 16) s = none := by
    simp [commandError, hsalsa20Error, hsKey, hsNonceHead, hsOut, State.fixedRegion, hkey, hnonce, hout]
  exact exec_of_only_output (r := hsOut s) (commandEffect_of_isStateless rfl s) hwf hok rfl

/-- Settles O21: the unit is the loaded one, whose nonce tail is the last 8 of 24 bytes. -/
theorem xsInitLoadsTheStream : Obligations.XsInitLoadsTheStream := by
  intro s hkey hnonce k n
  have hok : commandError (.xsInit 32 24) s = none := by
    simp [commandError, xsInitError, xsKeyIn, xsNonceIn, State.fixedRegion, hkey, hnonce]
  have hn : n.length = 24 := Memory.length_readBytes _ _ _
  have htail : slice n 16 24 = n.drop 16 := List.take_of_length_le (by simp [hn])
  obtain ⟨hsubkey, hnt⟩ := xsLoaded_key_nt (k := k) hn
  exact ⟨xsLoaded k n, exec_of_no_error hok, rfl, hsubkey, hnt.trans htail, rfl, rfl, rfl⟩

theorem xsOverflow_eq_false {ctrLimit len : Nat} {u : XsUnit}
    (h : xsNeed u len = 0 ∨ u.next + xsNeed u len - 1 ≤ ctrLimit) : xsOverflow ctrLimit u len = false := by
  rw [← Bool.not_eq_true, xsOverflow_eq_true_iff]
  omega

/-- Regions of one length are identical when they start together (R77). -/
theorem State.identicalOrDisjoint_lenRegion {s : State} {i j k : Fin 8}
    (h : s.x i = s.x j ∨ Region.disjoint (s.lenRegion i k) (s.lenRegion j k) = true) :
    Region.identicalOrDisjoint (s.lenRegion i k) (s.lenRegion j k) = true := by
  obtain hsame | hdisjoint := h
  · simp [Region.identicalOrDisjoint, State.lenRegion, hsame]
  · simp only [Region.identicalOrDisjoint, hdisjoint, Bool.or_true]

/-- Settles O22: the checks of R155 pass, and the one output is the XOR. -/
theorem xsXorWritesMessageXorKeystream : Obligations.XsXorWritesMessageXorKeystream := by
  intro s hwf hvalid hregions hplace hcount
  have hoverlap : (xsIn s).identicalOrDisjoint (xsOut s) = true := by
    refine State.identicalOrDisjoint_lenRegion (hplace.imp_right fun h => (Region.disjoint_iff _ _).mpr ?_)
    simp only [State.lenRegion]
    omega
  have hrange : s.regionsValid [xsIn s, xsOut s] = true := by
    simp only [State.regionsValid_iff, List.forall_mem_cons, List.not_mem_nil, false_implies, implies_true, and_true, xsIn,
      xsOut, State.lenRegion]
    omega
  have hok : commandError .xsXor s = none := by
    simp only [commandError, xsXorError, firstError_cons, firstError_nil, hvalid, hrange, hoverlap,
      xsOverflow_eq_false hcount, Bool.not_false, if_true]
  exact exec_of_one_output (r := xsOut s) hwf hok rfl rfl rfl rfl

/-- Settles O23: the checks of R156 pass, and the one output is the bytes taken. -/
theorem xsKeystreamWritesKeystream : Obligations.XsKeystreamWritesKeystream := by
  intro s hwf hvalid hregion hcount
  have hrange : s.regionsValid [xsOut s] = true := by
    simpa [xsOut, State.lenRegion] using hregion
  have hok : commandError .xsKeystream s = none := by
    simp only [commandError, xsKeystreamError, firstError_cons, firstError_nil, hvalid, hrange,
      xsOverflow_eq_false hcount, Bool.not_false, if_true]
  exact exec_of_one_output (r := xsOut s) hwf hok rfl rfl rfl rfl

/-! ### The accumulator unit -/

/-- Settles O24: the halves of the key read are the strings read at its halves. -/
theorem pInitLoadsTheKey : Obligations.PInitLoadsTheKey := by
  intro s hkey
  have hok : commandError (.pInit 32) s = none := by
    simp [commandError, pInitError, pKeyIn, State.fixedRegion, hkey]
  have hr : slice (s.memRead (pKeyIn s)) 0 16 = s.dmem.readBytes (s.x 0) 16 :=
    slice_readBytes s.dmem (show 16 ≤ 32 by decide)
  have hs : slice (s.memRead (pKeyIn s)) 16 32 = s.dmem.readBytes (s.x 0 + 16) 16 :=
    slice_readBytes s.dmem (Nat.le_refl 32)
  have hlt : le (s.dmem.readBytes (s.x 0 + 16) 16) < 2 ^ 128 := by
    have h := le_lt (s.dmem.readBytes (s.x 0 + 16) 16)
    rw [Memory.length_readBytes] at h
    exact h
  refine ⟨polyLoaded (s.memRead (pKeyIn s)), exec_of_no_error hok, rfl, ?_, ?_, rfl, rfl, rfl⟩
  · simp only [polyLoaded, polyR, hr]
    rfl
  · simp only [polyLoaded, polyS, hs, BitVec.toNat_ofNat, Nat.mod_eq_of_lt hlt]

/-- The buffer's length counts the bytes given, 16 at a time (R175). -/
theorem polyAbsorb_bufLen {u : PolyUnit} (hle : u.bufLen ≤ 15) (m : List Byte) :
    (polyAbsorb u m).bufLen = (u.bufLen + m.length) % 16 := by
  induction m generalizing u with
  | nil => exact (Nat.mod_eq_of_lt (Nat.lt_succ_of_le hle)).symm
  | cons b m ih =>
    have hbyte : (polyAbsorbByte u b).bufLen = (u.bufLen + 1) % 16 := by
      obtain ⟨hfull, chunk, h⟩ | ⟨hroom, h⟩ := polyAbsorbByte_cases u b
      · simp [h, hfull]
      · rw [h, Nat.mod_eq_of_lt (by omega)]
    have hrest := ih (u := polyAbsorbByte u b) (by omega)
    rw [List.length_cons]
    exact hrest.trans (by omega)

theorem polyAbsorb_keeps (u : PolyUnit) (m : List Byte) : (polyAbsorb u m).valid = u.valid ∧
    (polyAbsorb u m).r = u.r ∧ (polyAbsorb u m).s = u.s := by
  induction m generalizing u with
  | nil => exact ⟨rfl, rfl, rfl⟩
  | cons b m ih =>
    obtain ⟨hvalid, hr, hs⟩ := polyAbsorbByte_keeps u b
    rw [← hvalid, ← hr, ← hs]
    exact ih (polyAbsorbByte u b)

/-- Settles O25: the unit is the fold, whose parts each byte keeps or counts. -/
theorem pUpdateAbsorbsTheMessage : Obligations.PUpdateAbsorbsTheMessage := by
  intro s hvalid hle hregion
  have hrange : s.regionsValid [pMsgIn s] = true := by
    simpa [pMsgIn, State.lenRegion] using hregion
  have hok : commandError .pUpdate s = none := by
    simp only [commandError, pUpdateError, firstError_cons, firstError_nil, hvalid, hrange, if_true]
  obtain ⟨hkeepsValid, hkeepsR, hkeepsS⟩ := polyAbsorb_keeps s.poly (s.memRead (pMsgIn s))
  have hlen := polyAbsorb_bufLen hle (s.memRead (pMsgIn s))
  rw [State.length_memRead] at hlen
  exact ⟨polyAbsorb s.poly (s.memRead (pMsgIn s)), exec_of_no_error hok, rfl, hlen, hkeepsValid.trans hvalid, hkeepsR,
    hkeepsS⟩

/-- The tag as a number (R173). -/
theorem le_polyTag (acc s : Nat) : le (polyTag acc s) = (acc + s) % 2 ^ 128 := by
  have hlt : (acc + s) % 2 ^ 128 < 256 ^ 16 := Nat.mod_lt _ (by decide)
  rw [polyTag, le_leBytes 16 _ hlt]

/-- Settles O26: the bytes stored are the tag's number, little-endian. -/
theorem pFinalWritesTheTagAndClears : Obligations.PFinalWritesTheTagAndClears := by
  intro s hwf hvalid hregion chunk acc
  have hok : commandError .pFinal s = none := by
    simp [commandError, pFinalError, pTagOut, State.fixedRegion, hvalid, hregion]
  have htag : le (polyFinalTag s.poly) = (acc + s.poly.s.toNat) % 2 ^ 128 := le_polyTag acc s.poly.s.toNat
  have hresult : (commandEffect .pFinal s).result = s.result := commandEffect_result (by simp) (by simp) s
  have hxs : (commandEffect .pFinal s).xs = s.xs := commandEffect_xs (by simp) (by simp) (by simp) (by simp) s
  have hpoly : (commandEffect .pFinal s).poly = PolyUnit.cleared := rfl
  obtain ⟨t, hexec, hbytes, hframe, ht⟩ :=
    exec_of_one_output (r := pTagOut s) (v := polyFinalTag s.poly) hwf hok rfl hresult hxs hpoly
  exact ⟨t, hexec, (congrArg le hbytes).trans htag, hframe, ht⟩

/-! ### CT.MEMCMP -/

/-- Settles O30: the compare of strings of the compared length is equality. -/
theorem ctMemcmpReportsEquality : Obligations.CtMemcmpReportsEquality := by
  intro s hregions
  have hrange : s.regionsValid [cmpA s, cmpB s] = true := by
    simp only [State.regionsValid_iff, List.forall_mem_cons, List.not_mem_nil, false_implies, implies_true, and_true, cmpA,
      cmpB, State.lenRegion]
    omega
  have hok : commandError .ctMemcmp s = none := by
    simp only [commandError, ctMemcmpError, firstError_cons, firstError_nil, hrange, if_true]
  have hequal : ctEq (s.memRead (cmpA s)) (s.memRead (cmpB s)) (s.x 2) = true ↔
      s.dmem.readBytes (s.x 0) (s.x 2) = s.dmem.readBytes (s.x 1) (s.x 2) :=
    ctEq_iff_eq (s.length_memRead _) (s.length_memRead _)
  rw [exec_of_no_error hok]
  simp only [commandEffect, State.finish, hequal]

/-! ### The AEAD construction -/

/-- The tag key is the start of keystream block 0 (R190). -/
theorem aeadPolyKey_eq_take (k n : List Byte) (len : Nat) : aeadPolyKey k n len = (xsKs k n (64 + len)).take 32 := rfl

/-- The body keystream is what follows keystream block 0 (R190). -/
theorem aeadBodyKs_eq_drop (k n : List Byte) (len : Nat) : aeadBodyKs k n len = (xsKs k n (64 + len)).drop 64 :=
  List.take_of_length_le (by simp [ctOffset])

/-- Opening compares the expected tag with the given one, and undoes the XOR when they are equal (R191). -/
theorem aeadOpen_eq (k n ct : List Byte) {tag : List Byte} (htag : tag.length = 16) : aeadOpen k n ct tag =
    if poly1305Fn (aeadPolyKey k n ct.length) ct = tag then some (xorBytes ct (aeadBodyKs k n ct.length)) else none := by
  simp only [aeadOpen, ctEq_iff_eq (length_poly1305Fn _ _) htag]

/-- The tag that opens a sealed body is the sealed one, and the body opens to the plaintext (R196). -/
theorem aeadOpen_aeadSeal (k n pt : List Byte) {tag : List Byte} (htag : tag.length = 16) :
    aeadOpen k n (aeadSeal k n pt).2 tag = if (aeadSeal k n pt).1 = tag then some pt else none := by
  have hundo : xorBytes (aeadSeal k n pt).2 (aeadBodyKs k n pt.length) = pt :=
    xorBytes_xorBytes_cancel pt _ (by simp [aeadBodyKs])
  rw [aeadOpen_eq k n _ htag, length_aeadSeal_body, hundo]
  rfl

/-- Settles O40: only the sealed tag opens the sealed body. -/
theorem openInvertsSeal : Obligations.OpenInvertsSeal := by
  intro k n pt
  refine ⟨?_, length_aeadSeal_body k n pt, length_aeadSeal_tag k n pt, fun tag htag hne => ?_⟩
  · rw [aeadOpen_aeadSeal k n pt (length_aeadSeal_tag k n pt), if_pos rfl]
  · rw [aeadOpen_aeadSeal k n pt htag, if_neg (Ne.symm hne)]

/-- Settles O42: both sides use the keystream from position 0 for the key and from position 64 for the body. -/
theorem sealIsTheUnitsComposed : Obligations.SealIsTheUnitsComposed := by
  intro k n pt hn
  have hkey : aeadPolyKey k n pt.length = (keystreamFrom k n 0 64).take 32 :=
    calc aeadPolyKey k n pt.length
      _ = keystreamFrom k n 0 32 := slice_xsKs k n (by simp only [ctOffset]; omega)
      _ = (keystreamFrom k n 0 64).take 32 := by simp only [keystreamFrom, ← List.map_take]; rfl
  have hbody : aeadBodyKs k n pt.length = keystreamFrom k n 64 pt.length := slice_xsKs_of_position k n 64 pt.length
  simp only [xsLoaded_eq_xsAfter, xsTake_xsAfter hn, polyLoaded_eq_polyAfter, polyAbsorb_polyAfter, polyFinalTag_polyAfter,
    List.nil_append, Nat.zero_add, aeadSeal, hkey, hbody]

theorem aeadLengthOk_of_le {s : State} (hmax : s.x 3 ≤ s.build.aeadMaxLen) (hctr : (s.x 3 + 63) / 64 ≤ s.build.ctrLimit) :
    aeadLengthOk s = true := decide_eq_true ⟨hmax, hctr⟩

/-- The checks of `AEAD.ENC` on its operands, and when all pass (R192). -/
theorem aeadEncError_eq_none_iff (s : State) : commandError (.aeadEnc 32 24) s = none ↔
    s.regionsValid [aeadKeyIn s, aeadNonceIn s, aeadBodyIn s, encBodyOut s, encTagOut s] = true ∧
    (aeadBodyIn s).identicalOrDisjoint (encBodyOut s) = true ∧ Region.disjoint (encTagOut s) (aeadBodyIn s) = true ∧
    Region.disjoint (encTagOut s) (encBodyOut s) = true ∧ aeadLengthOk s = true := by
  simp only [commandError, aeadEncError, firstError_eq_none, List.forall_mem_cons, List.not_mem_nil, false_implies,
    implies_true, and_true, beq_self_eq_true, true_and, Bool.and_eq_true, and_assoc]

/-- The checks of `AEAD.DEC` on its operands, and when all pass (R193). -/
theorem aeadDecOperandError_eq_none_iff (s : State) : aeadDecOperandError 32 24 s = none ↔
    s.regionsValid [aeadKeyIn s, aeadNonceIn s, aeadBodyIn s, decTagIn s, decBodyOut s] = true ∧
    (aeadBodyIn s).identicalOrDisjoint (decBodyOut s) = true ∧ Region.disjoint (decTagIn s) (decBodyOut s) = true ∧
    aeadLengthOk s = true := by
  simp only [aeadDecOperandError, firstError_eq_none, List.forall_mem_cons, List.not_mem_nil, false_implies,
    implies_true, and_true, beq_self_eq_true, true_and, Bool.and_eq_true, and_assoc]

theorem State.finish_memRead (s : State) (r : Region) : s.finish.memRead r = s.memRead r := rfl

/-- `AEAD.ENC` that passes its checks stores the sealed body, then the tag beside it (R192). -/
theorem exec_aeadEnc {klen nlen : Nat} {s : State} (hwf : s.dmem.wf) (hok : commandError (.aeadEnc klen nlen) s = none)
    (hdisjoint : Region.disjoint (encTagOut s) (encBodyOut s) = true) :
    ∃ t, exec (.aeadEnc klen nlen) s = .next t ∧ t.memRead (encBodyOut s) = (aeadEncSealed s).2 ∧
      t.memRead (encTagOut s) = (aeadEncSealed s).1 ∧ t = { s with dmem := t.dmem, done := true, busy := false } := by
  have hbody : (aeadEncSealed s).2.length = (encBodyOut s).len :=
    (length_aeadSeal_body _ _ _).trans (s.length_memRead _)
  have htag : (aeadEncSealed s).1.length = (encTagOut s).len := length_aeadSeal_tag _ _ _
  have heffect : commandEffect (.aeadEnc klen nlen) s =
      (s.memWrite (encBodyOut s) (aeadEncSealed s).2).memWrite (encTagOut s) (aeadEncSealed s).1 := rfl
  obtain ⟨hresult, hxs, hpoly⟩ := commandEffect_of_isStateless (i := .aeadEnc klen nlen) rfl s
  have heq := finish_commandEffect_eq (.aeadEnc klen nlen) s
  rw [hresult, hxs, hpoly] at heq
  refine ⟨_, exec_of_no_error hok, ?_, ?_, heq⟩
  · rw [State.finish_memRead, heffect, State.memRead_memWrite_disjoint _ _ _ _ htag hdisjoint,
      State.memRead_memWrite s hwf _ _ hbody]
  · rw [State.finish_memRead, heffect, State.memRead_memWrite _ (s.wf_memWrite hwf _ _) _ _ htag]

/-- Settles O27: the sealed body and tag are those of the keystream's two parts. -/
theorem aeadEncWritesBodyAndTag : Obligations.AeadEncWritesBodyAndTag := by
  intro s hwf hregions hplace htagIn htagOut hmax hctr ks ct
  have hok : commandError (.aeadEnc 32 24) s = none := (aeadEncError_eq_none_iff s).mpr
    ⟨hregions, State.identicalOrDisjoint_lenRegion hplace, htagIn, htagOut, aeadLengthOk_of_le hmax hctr⟩
  have hlen : (s.memRead (aeadBodyIn s)).length = s.x 3 := s.length_memRead _
  have hsealed : aeadEncSealed s = (poly1305Fn (ks.take 32) ct, ct) := by
    simp only [aeadEncSealed, aeadSeal, hlen, aeadPolyKey_eq_take, aeadBodyKs_eq_drop]
    rfl
  obtain ⟨t, hexec, hbody, htag, ht⟩ := exec_aeadEnc hwf hok htagOut
  rw [hsealed] at hbody htag
  exact ⟨t, hexec, hbody, htag, fun a ha => exec_keeps_outside hexec ha, ht⟩

/-- What `AEAD.DEC` opens, by the tag it expects (R191, R193). -/
theorem aeadDecOpened_eq (s : State) : aeadDecOpened s =
    if poly1305Fn ((xsKs (s.dmem.readBytes (s.x 0) 32) (s.dmem.readBytes (s.x 1) 24) (64 + s.x 3)).take 32)
        (s.dmem.readBytes (s.x 2) (s.x 3)) = s.dmem.readBytes (s.x 4) 16
      then some (xorBytes (s.dmem.readBytes (s.x 2) (s.x 3))
        ((xsKs (s.dmem.readBytes (s.x 0) 32) (s.dmem.readBytes (s.x 1) 24) (64 + s.x 3)).drop 64))
      else none := by
  have hopen := aeadOpen_eq (s.memRead (aeadKeyIn s)) (s.memRead (aeadNonceIn s)) (s.memRead (aeadBodyIn s))
    (s.length_memRead (decTagIn s))
  rw [aeadPolyKey_eq_take, aeadBodyKs_eq_drop, State.length_memRead] at hopen
  exact hopen

/-- The operands of `AEAD.DEC` pass when the regions, their places and the length do (R193). -/
theorem aeadDecOperandError_eq_none {s : State}
    (hregions : s.regionsValid [aeadKeyIn s, aeadNonceIn s, aeadBodyIn s, decTagIn s, decBodyOut s] = true)
    (hplace : s.x 2 = s.x 5 ∨ Region.disjoint (aeadBodyIn s) (decBodyOut s) = true)
    (htagIn : Region.disjoint (decTagIn s) (decBodyOut s) = true)
    (hmax : s.x 3 ≤ s.build.aeadMaxLen) (hctr : (s.x 3 + 63) / 64 ≤ s.build.ctrLimit) :
    aeadDecOperandError 32 24 s = none :=
  (aeadDecOperandError_eq_none_iff s).mpr
    ⟨hregions, State.identicalOrDisjoint_lenRegion hplace, htagIn, aeadLengthOk_of_le hmax hctr⟩

/-- `AEAD.DEC` whose operands pass and whose tag verifies stores the plaintext (R193). -/
theorem exec_aeadDec_of_opened {klen nlen : Nat} {s : State} {pt : List Byte} (hwf : s.dmem.wf)
    (hoperands : aeadDecOperandError klen nlen s = none) (hopened : aeadDecOpened s = some pt) :
    ∃ t, exec (.aeadDec klen nlen) s = .next t ∧ t.dmem.readBytes (s.x 5) (s.x 3) = pt ∧
      (∀ a, a < s.x 5 ∨ s.x 5 + s.x 3 ≤ a → t.dmem.read a = s.dmem.read a) ∧
      t = { s with dmem := t.dmem, done := true, busy := false } := by
  have hok : commandError (.aeadDec klen nlen) s = none :=
    (aeadDecError_eq_none klen nlen s).mpr ⟨hoperands, by rw [hopened]; rfl⟩
  have hout : commandOutputs (.aeadDec klen nlen) s = [(decBodyOut s, pt)] := by simp [commandOutputs, hopened]
  exact exec_of_only_output (commandEffect_of_isStateless rfl s) hwf hok hout

/-- Settles O28: the expected tag is the given one, so the body is opened. -/
theorem aeadDecWritesThePlaintext : Obligations.AeadDecWritesThePlaintext := by
  intro s hwf hregions hplace htagIn hmax hctr ks ct htag
  exact exec_aeadDec_of_opened hwf (aeadDecOperandError_eq_none hregions hplace htagIn hmax hctr)
    ((aeadDecOpened_eq s).trans (if_pos htag))

/-- Settles O29: the tag is the last check, and a failed check only raises its error. -/
theorem aeadDecRejectsAWrongTag : Obligations.AeadDecRejectsAWrongTag := by
  intro s hregions hplace htagIn hmax hctr htag
  have hopened : aeadDecOpened s = none := (aeadDecOpened_eq s).trans (if_neg htag)
  have herror : commandError (.aeadDec 32 24) s = some .authenticationFailure := by
    show aeadDecError 32 24 s = _
    rw [aeadDecError_eq_or, aeadDecOperandError_eq_none hregions hplace htagIn hmax hctr, hopened]
    rfl
  exact exec_of_error herror

theorem Region.covers_eq_false_of_disjoint {a b : Region} (h : Region.disjoint a b = true) {x : Nat}
    (hx : a.covers x = true) : b.covers x = false := by
  by_contra hmeets
  have hfalse := (Region.disjoint_eq_false_iff a b).mpr ⟨x, hx, by simpa using hmeets⟩
  simp [h] at hfalse

/-- A command leaves the string in a region disjoint from its output regions. -/
theorem exec_keeps_memRead {i : Instr} {s t : State} {r : Region} (h : exec i s = .next t)
    (hr : ∀ w ∈ writeRegions i s, Region.disjoint r w = true) : t.memRead r = s.memRead r := by
  refine Memory.readBytes_congr _ _ _ _ fun x hlow hhigh => exec_keeps_outside h fun w hw => ?_
  exact Region.covers_eq_false_of_disjoint (hr w hw) (decide_eq_true ⟨hlow, hhigh⟩)

/-- Storing the output of a command keeps the canonical form. -/
theorem exec_keeps_wf {i : Instr} {s t : State} (h : exec i s = .next t) (hwf : s.dmem.wf) : t.dmem.wf := by
  obtain ⟨e, -, rfl⟩ | ⟨-, rfl⟩ := exec_next h
  · exact hwf
  · rw [State.finish_dmem, commandEffect_dmem]
    exact Memory.wf_store _ hwf

/-- What sealing stored opens to the plaintext, for a state that reads the sealed strings back. -/
theorem aeadDecOpened_of_sealed {s d : State} (hkey : d.memRead (aeadKeyIn d) = s.memRead (aeadKeyIn s))
    (hnonce : d.memRead (aeadNonceIn d) = s.memRead (aeadNonceIn s))
    (hbody : d.memRead (aeadBodyIn d) = (aeadEncSealed s).2) (htag : d.memRead (decTagIn d) = (aeadEncSealed s).1) :
    aeadDecOpened d = some (s.memRead (aeadBodyIn s)) := by
  rw [aeadDecOpened, hkey, hnonce, hbody, htag]
  exact (aeadOpen_aeadSeal _ _ _ (length_aeadSeal_tag _ _ _)).trans (if_pos rfl)

/-- Settles O41: the outputs of `AEAD.ENC` are read back, and what was sealed opens to the plaintext. -/
theorem aeadDecUndoesAeadEnc : Obligations.AeadDecUndoesAeadEnc := by
  intro s out hwf hok hkeyBody hkeyTag hnonceBody hnonceTag hrange hplace htagOut
  obtain ⟨hregions, -, -, htagBody, hlength⟩ := (aeadEncError_eq_none_iff s).mp hok
  obtain ⟨t, hexec, hbody, htag, ht⟩ := exec_aeadEnc hwf hok htagBody
  have hkey : t.memRead (aeadKeyIn s) = s.memRead (aeadKeyIn s) :=
    exec_keeps_memRead hexec (by simpa only [writeRegions, List.forall_mem_cons] using ⟨hkeyBody, hkeyTag, by simp⟩)
  have hnonce : t.memRead (aeadNonceIn s) = s.memRead (aeadNonceIn s) :=
    exec_keeps_memRead hexec (by simpa only [writeRegions, List.forall_mem_cons] using ⟨hnonceBody, hnonceTag, by simp⟩)
  refine ⟨t, ?_⟩
  generalize hissued : State.issue { t with
    arg := #v[s.pendArg[0], s.pendArg[1], s.pendArg[4], s.pendArg[3], s.pendArg[5], out, 0, 0] }
    (encode (.aeadDec 32 24)) = d
  have hread (r : Region) : d.memRead r = t.memRead r := by rw [← hissued]; rfl
  have hbuild : d.build = s.build := by rw [← hissued, ht]; rfl
  have herr : d.err = false := by rw [← hissued]; rfl
  have hdmem : d.dmem = t.dmem := by rw [← hissued]; rfl
  have hdwf : d.dmem.wf := by rw [hdmem]; exact exec_keeps_wf hexec hwf
  obtain ⟨hkeyIn, hnonceIn, hbodyIn, htagIn, hbodyOut⟩ : aeadKeyIn d = aeadKeyIn s ∧ aeadNonceIn d = aeadNonceIn s ∧
      aeadBodyIn d = encBodyOut s ∧ decTagIn d = encTagOut s ∧ decBodyOut d = ⟨out.toNat, s.x 3⟩ := by
    rw [← hissued]
    exact ⟨rfl, rfl, rfl, rfl, rfl⟩
  have hoperands : aeadDecOperandError 32 24 d = none := by
    have hlen : d.x 3 = s.x 3 := congrArg Region.len hbodyOut
    refine (aeadDecOperandError_eq_none_iff d).mpr ⟨?_, ?_, ?_, ?_⟩
    · simp only [State.regionsValid_iff, List.forall_mem_cons, List.not_mem_nil, false_implies, implies_true, and_true,
        hkeyIn, hnonceIn, hbodyIn, htagIn, hbodyOut, hbuild] at hregions ⊢
      obtain ⟨hkeyValid, hnonceValid, -, hbodyValid, htagValid⟩ := hregions
      exact ⟨hkeyValid, hnonceValid, hbodyValid, htagValid, hrange⟩
    · rw [hbodyIn, hbodyOut]
      obtain hsame | hdisjoint := hplace
      · simp [Region.identicalOrDisjoint, encBodyOut, State.lenRegion, hsame]
      · simp only [Region.identicalOrDisjoint, hdisjoint, Bool.or_true]
    · rw [htagIn, hbodyOut, htagOut]
    · simpa only [aeadLengthOk, hlen, hbuild] using hlength
  have hopened : aeadDecOpened d = some (s.memRead (aeadBodyIn s)) :=
    aeadDecOpened_of_sealed (by rw [hread, hkeyIn, hkey]) (by rw [hread, hnonceIn, hnonce])
      (by rw [hread, hbodyIn, hbody]) (by rw [hread, htagIn, htag])
  obtain ⟨u, hdec, hplain, -, hu⟩ := exec_aeadDec_of_opened hdwf hoperands hopened
  have hout : u.memRead (decBodyOut d) = s.memRead (aeadBodyIn s) := hplain
  rw [hbodyOut] at hout
  refine ⟨u, hexec, hdec, hout, ?_, ?_⟩
  · rw [hu]
  · rw [hu]
    exact herr

end Sys2Proof.Machine

/-! The laws of the Salsa20 core (40_salsa20_core.md R131): a quarter-round is undone step by step, and each round is four
quarter-rounds side by side. -/

namespace Sys2Proof.Machine

/-! ### Bijections -/

/-- Four words, a row or a column of the matrix (R121). -/
abbrev Quarter := Word × Word × Word × Word

/-- `quarterround` on a quadruple. -/
def quarter (y : Quarter) : Quarter := quarterround y.1 y.2.1 y.2.2.1 y.2.2.2

/-- The steps of `quarterround` undone in reverse order; each step XORs one word with a value of the others. -/
def unquarter (z : Quarter) : Quarter :=
  let y0 := z.1 ^^^ rotl (z.2.2.2 + z.2.2.1) 18
  let y3 := z.2.2.2 ^^^ rotl (z.2.2.1 + z.2.1) 13
  let y2 := z.2.2.1 ^^^ rotl (z.2.1 + y0) 9
  let y1 := z.2.1 ^^^ rotl (y0 + y3) 7
  (y0, y1, y2, y3)

theorem xor_xor_cancel_right (a b : Word) : a ^^^ b ^^^ b = a := by
  rw [BitVec.xor_assoc, BitVec.xor_self, BitVec.xor_zero]

theorem unquarter_quarter (y : Quarter) : unquarter (quarter y) = y := by
  simp only [unquarter, quarter, quarterround, xor_xor_cancel_right]

theorem quarter_unquarter (z : Quarter) : quarter (unquarter z) = z := by
  simp only [unquarter, quarter, quarterround, xor_xor_cancel_right]

theorem quarter_bijective : Function.Bijective quarter :=
  Function.bijective_iff_has_inverse.mpr ⟨unquarter, unquarter_quarter, quarter_unquarter⟩

/-- `quarterround` on four quadruples side by side. -/
def quarters : Quarter × Quarter × Quarter × Quarter → Quarter × Quarter × Quarter × Quarter :=
  Prod.map quarter (Prod.map quarter (Prod.map quarter quarter))

theorem quarters_bijective : Function.Bijective quarters :=
  quarter_bijective.prodMap (quarter_bijective.prodMap (quarter_bijective.prodMap quarter_bijective))

/-- The columns in the order `columnround` takes them (R122). -/
def Block.columns (x : Block) : Quarter × Quarter × Quarter × Quarter :=
  ((x.x0, x.x4, x.x8, x.x12), (x.x5, x.x9, x.x13, x.x1), (x.x10, x.x14, x.x2, x.x6), (x.x15, x.x3, x.x7, x.x11))

/-- The state with given columns. -/
def Block.ofColumns (c : Quarter × Quarter × Quarter × Quarter) : Block :=
  let ((z0, z4, z8, z12), (z5, z9, z13, z1), (z10, z14, z2, z6), (z15, z3, z7, z11)) := c
  ⟨z0, z1, z2, z3, z4, z5, z6, z7, z8, z9, z10, z11, z12, z13, z14, z15⟩

/-- The rows in the order `rowround` takes them (R123). -/
def Block.rows (x : Block) : Quarter × Quarter × Quarter × Quarter :=
  ((x.x0, x.x1, x.x2, x.x3), (x.x5, x.x6, x.x7, x.x4), (x.x10, x.x11, x.x8, x.x9), (x.x15, x.x12, x.x13, x.x14))

/-- The state with given rows. -/
def Block.ofRows (r : Quarter × Quarter × Quarter × Quarter) : Block :=
  let ((z0, z1, z2, z3), (z5, z6, z7, z4), (z10, z11, z8, z9), (z15, z12, z13, z14)) := r
  ⟨z0, z1, z2, z3, z4, z5, z6, z7, z8, z9, z10, z11, z12, z13, z14, z15⟩

theorem columns_bijective : Function.Bijective Block.columns :=
  Function.bijective_iff_has_inverse.mpr ⟨Block.ofColumns, fun _ => rfl, fun _ => rfl⟩

theorem ofColumns_bijective : Function.Bijective Block.ofColumns :=
  Function.bijective_iff_has_inverse.mpr ⟨Block.columns, fun _ => rfl, fun _ => rfl⟩

theorem rows_bijective : Function.Bijective Block.rows :=
  Function.bijective_iff_has_inverse.mpr ⟨Block.ofRows, fun _ => rfl, fun _ => rfl⟩

theorem ofRows_bijective : Function.Bijective Block.ofRows :=
  Function.bijective_iff_has_inverse.mpr ⟨Block.rows, fun _ => rfl, fun _ => rfl⟩

theorem columnround_eq : columnround = Block.ofColumns ∘ quarters ∘ Block.columns := rfl

theorem rowround_eq : rowround = Block.ofRows ∘ quarters ∘ Block.rows := rfl

theorem columnround_bijective : Function.Bijective columnround := by
  rw [columnround_eq]
  exact ofColumns_bijective.comp (quarters_bijective.comp columns_bijective)

theorem rowround_bijective : Function.Bijective rowround := by
  rw [rowround_eq]
  exact ofRows_bijective.comp (quarters_bijective.comp rows_bijective)

theorem doublerounds_bijective (n : Nat) : Function.Bijective (doublerounds n) := by
  induction n with
  | zero => exact Function.bijective_id
  | succ n ih => exact ih.comp (rowround_bijective.comp columnround_bijective)

theorem perm_bijective : Function.Bijective perm := doublerounds_bijective 10

/-! ### The zero state -/

theorem doubleround_zero : doubleround (blockOfWords []) = blockOfWords [] := by decide

theorem doublerounds_zero (n : Nat) : doublerounds n (blockOfWords []) = blockOfWords [] := by
  induction n with
  | zero => rfl
  | succ n ih => rw [doublerounds, doubleround_zero, ih]

/-! ### The two core modes -/

/-- R13: a string of `4m` bytes has `m` words. -/
theorem length_words (m : Nat) (s : List Byte) (h : s.length = 4 * m) : (words s).length = m := by
  induction m generalizing s with
  | zero => rw [List.eq_nil_of_length_eq_zero h]; rfl
  | succ m ih =>
    match s, h with
    | b0 :: b1 :: b2 :: b3 :: rest, h =>
      have hrest : rest.length = 4 * m := by simpa [Nat.mul_succ] using h
      rw [words, List.length_cons, ih rest hrest]

/-- A list of 16 words is the words of its state. -/
theorem toWords_blockOfWords {ws : List Word} (h : ws.length = 16) : (blockOfWords ws).toWords = ws := by
  apply List.ext_getElem
  · rw [Block.length_toWords, h]
  · intro i hi _
    rw [Block.length_toWords] at hi
    interval_cases i <;> simp [blockOfWords, Block.toWords, h]

theorem addBlocks_toWords (a b : Block) :
    (addBlocks a b).toWords = List.zipWith (· + ·) a.toWords b.toWords := rfl

/-- Settles O32: the modes differ by the feed-forward of the input's words. -/
theorem permutationLaws : Obligations.PermutationLaws := by
  refine ⟨doublerounds_zero 10, ⟨quarter_bijective, columnround_bijective, rowround_bijective, perm_bijective⟩,
    fun input hlen => ?_⟩
  have hwords : (words input).length = 16 := length_words 16 input hlen
  simp only [coreStream, coreHash, words_bytesOf, addBlocks_toWords, toWords_blockOfWords hwords]

end Sys2Proof.Machine
